-- ==== Sys2Proof/Config.lean ====
section
/-!
DEFINITION. The implementation parameters (00_scope.md R5, R6, R8) and the two configurations the
spec names. The spec leaves no value of the machine undefined, so there is no free value here.
-/
namespace Sys2Proof

/-- One configuration (R5, R8): the modulus Q, LOGN and NSLOT. N is `2 ^ logN`, so it is a power of
two by construction. -/
structure Config where
  q : Nat
  logN : Nat
  nslot : Nat
  deriving DecidableEq, Repr

/-- N, the number of coefficients of a ring element (R5). -/
def Config.n (c : Config) : Nat := 2 ^ c.logN

/-- The conditions a configuration meets (R5, R8). The model takes them as a hypothesis where a claim
needs them (U9; log 8). -/
structure Config.Valid (c : Config) : Prop where
  prime : c.q.Prime
  three_le : 3 ≤ c.q
  q_lt : c.q < 2 ^ 31
  logN_pos : 1 ≤ c.logN
  logN_le : c.logN ≤ 15
  dvd : 2 * c.n ∣ c.q - 1
  nslot_pos : 1 ≤ c.nslot
  nslot_le : c.nslot ≤ 256

/-- TOY = (17, 4) with NSLOT = 32 (R6, R8). -/
def Config.toy : Config := { q := 17, logN := 2, nslot := 32 }

/-- PROD = (8380417, 256) with NSLOT = 32 (R6, R8). -/
def Config.prod : Config := { q := 8380417, logN := 8, nslot := 32 }

end Sys2Proof
end

