-- ==== Sys2Proof/Word.lean ====
section
/-!
DEFINITION. The words of the machine: the 64-bit data word (00_scope.md R7), the 32-bit host word
address (20_memory.md R60), the 4-bit register number, the 8-bit slot number (30_encoding.md R94) and
the 16-bit descriptor field (10_state.md R37).
-/
namespace Sys2Proof

/-- One W = 64 bit word, read as signed two's complement (R7, R10). -/
abbrev Word := BitVec 64

/-- A word address of the host space (R60). -/
abbrev Addr := BitVec 32

/-- A command word (R90). -/
abbrev CmdWord := BitVec 32

/-- A scalar register number; every value names a register (R21, R94). -/
abbrev RegNo := BitVec 4

/-- A slot field of a command (R92, R94). -/
abbrev SlotNo := BitVec 8

/-- The 16 bits that MBASE, MROWS, MCOLS and VLEN keep (R37). -/
abbrev Half := BitVec 16

end Sys2Proof
end

