-- ==== Sys2Proof/Syntax.lean ====
section
/-!
DEFINITION. The seventeen commands of 30_encoding.md R93, one constructor per row of
spec/opcode_table.json, with the operands in the order of the assembler forms of R100.
-/
namespace Sys2Proof

inductive Instr where
  /-- `CRED rd, rs1` (R122) -/
  | cred (rd rs1 : RegNo)
  /-- `MODADD rd, rs1, rs2` (R123) -/
  | modadd (rd rs1 rs2 : RegNo)
  /-- `MODSUB rd, rs1, rs2`, rs1 the minuend (R124) -/
  | modsub (rd rs1 rs2 : RegNo)
  /-- `MODMUL rd, rs1, rs2` (R125) -/
  | modmul (rd rs1 rs2 : RegNo)
  /-- `MODDIV rd, rs1, rs2`, rs1 dividend, rs2 divisor (R132) -/
  | moddiv (rd rs1 rs2 : RegNo)
  /-- `MODEXP rd, rs1, rs2`, rs1 base, rs2 exponent (R128) -/
  | modexp (rd rs1 rs2 : RegNo)
  /-- `MODINV rd, rs1` (R130) -/
  | modinv (rd rs1 : RegNo)
  /-- `BITREV rd, rs1, k` (R151) -/
  | bitrev (rd rs1 : RegNo) (k : BitVec 6)
  /-- `ZFIND rd, neg`, `true` for the negacyclic search (R153) -/
  | zfind (rd : RegNo) (neg : Bool)
  /-- `ZGEN rs1` (R155) -/
  | zgen (rs1 : RegNo)
  /-- `ECREATE ed` (R230) -/
  | ecreate (ed : SlotNo)
  /-- `NTT ed` (R175) -/
  | ntt (ed : SlotNo)
  /-- `INTT ed` (R177) -/
  | intt (ed : SlotNo)
  /-- `PWADD ed, ea, eb` (R201) -/
  | pwadd (ed ea eb : SlotNo)
  /-- `PWSUB ed, ea, eb`, ea minus eb (R202) -/
  | pwsub (ed ea eb : SlotNo)
  /-- `PWMUL ed, ea, eb` (R203) -/
  | pwmul (ed ea eb : SlotNo)
  /-- `MATVEC ed, eb`, ed the first output slot, eb the first vector slot (R209) -/
  | matvec (ed eb : SlotNo)
  deriving DecidableEq, Repr

end Sys2Proof
end

