-- ==== Sys2Proof/WellFormed.lean ====
section
/-!
DEFINITION. The one condition on a command that its fields' widths do not give: a used slot field is
below NSLOT (30_encoding.md R94, R96 step 4). Register numbers always name a register (R94), and
MATVEC's slot fields are checked by its own rule and not here (R94, R207).
-/
namespace Sys2Proof

/-- The slot fields that the decoder checks (R96 step 4). -/
def Instr.checkedSlots : Instr → List SlotNo
  | .cred _ _ => []
  | .modadd _ _ _ => []
  | .modsub _ _ _ => []
  | .modmul _ _ _ => []
  | .moddiv _ _ _ => []
  | .modexp _ _ _ => []
  | .modinv _ _ => []
  | .bitrev _ _ _ => []
  | .zfind _ _ => []
  | .zgen _ => []
  | .ecreate ed => [ed]
  | .ntt ed => [ed]
  | .intt ed => [ed]
  | .pwadd ed ea eb => [ed, ea, eb]
  | .pwsub ed ea eb => [ed, ea, eb]
  | .pwmul ed ea eb => [ed, ea, eb]
  | .matvec _ _ => []

/-- Every listed slot field names a slot (R94). -/
def slotsExist (nslot : Nat) (fields : List SlotNo) : Bool := fields.all (fun k => decide (k.toNat < nslot))

/-- A command whose used slot fields all name a slot of a unit with `nslot` slots. -/
def Instr.wellFormed (nslot : Nat) (i : Instr) : Bool := slotsExist nslot i.checkedSlots

end Sys2Proof
end

