-- ==== Sys2Proof/Decode.lean ====
section
/-!
DEFINITION. Decoding a word written to CMD (30_encoding.md R90 to R97), total on 64-bit words and
refusing by name; then the encoder, written from the same tables; then the rows of R93 with their
match and mask.
-/
namespace Sys2Proof

/-- Why a word is illegal: the step of R96 that refuses it. The unit reports ILLEGAL_CMD for all four
(R97); the names are the decoder's own (log 13). -/
inductive Illegal where
  /-- step 1: bits [63:32] are not all 0 -/
  | highBits
  /-- step 2: the opcode is none of the seventeen -/
  | reservedOpcode
  /-- step 3: a must-be-zero field is not 0 -/
  | nonzeroField
  /-- step 4: a used slot field is ≥ NSLOT -/
  | slotOutOfRange
  deriving DecidableEq, Repr

/-! ## Fields (R91, R92) -/

def opcodeField (w : CmdWord) : BitVec 8 := w.extractLsb' 24 8
def rdField (w : CmdWord) : RegNo := w.extractLsb' 20 4
def rs1Field (w : CmdWord) : RegNo := w.extractLsb' 16 4
def rs2Field (w : CmdWord) : RegNo := w.extractLsb' 12 4
def immField (w : CmdWord) : BitVec 12 := w.extractLsb' 0 12
def edField (w : CmdWord) : SlotNo := w.extractLsb' 16 8
def eaField (w : CmdWord) : SlotNo := w.extractLsb' 8 8
def ebField (w : CmdWord) : SlotNo := w.extractLsb' 0 8
/-- k = imm[5:0] of BITREV (R95). -/
def kField (w : CmdWord) : BitVec 6 := w.extractLsb' 0 6
/-- imm[11:6], which BITREV requires to be 0 (R93). -/
def immAboveK (w : CmdWord) : BitVec 6 := w.extractLsb' 6 6
/-- imm[11:1], which ZFIND requires to be 0 (R93). -/
def immAboveNeg (w : CmdWord) : BitVec 11 := w.extractLsb' 1 11

/-! ## Decoding -/

/-- Step 3 of R96 for one opcode: `i` when its must-be-zero fields are 0. -/
def whenZero (fieldsAreZero : Bool) (i : Instr) : Except Illegal Instr :=
  if fieldsAreZero then .ok i else .error .nonzeroField

/-- Steps 2 and 3 of R96 on the 32-bit command word. -/
def decodeFields (w : CmdWord) : Except Illegal Instr :=
  match (opcodeField w).toNat with
  | 0x01 => whenZero (rs2Field w == 0 && immField w == 0) (.cred (rdField w) (rs1Field w))
  | 0x02 => whenZero (immField w == 0) (.modadd (rdField w) (rs1Field w) (rs2Field w))
  | 0x03 => whenZero (immField w == 0) (.modsub (rdField w) (rs1Field w) (rs2Field w))
  | 0x04 => whenZero (immField w == 0) (.modmul (rdField w) (rs1Field w) (rs2Field w))
  | 0x05 => whenZero (immField w == 0) (.moddiv (rdField w) (rs1Field w) (rs2Field w))
  | 0x06 => whenZero (immField w == 0) (.modexp (rdField w) (rs1Field w) (rs2Field w))
  | 0x07 => whenZero (rs2Field w == 0 && immField w == 0) (.modinv (rdField w) (rs1Field w))
  | 0x10 => whenZero (rs2Field w == 0 && immAboveK w == 0) (.bitrev (rdField w) (rs1Field w) (kField w))
  | 0x11 => whenZero (rs1Field w == 0 && rs2Field w == 0 && immAboveNeg w == 0) (.zfind (rdField w) (w.getLsbD 0))
  | 0x12 => whenZero (rdField w == 0 && rs2Field w == 0 && immField w == 0) (.zgen (rs1Field w))
  | 0x20 => whenZero (eaField w == 0 && ebField w == 0) (.ecreate (edField w))
  | 0x21 => whenZero (eaField w == 0 && ebField w == 0) (.ntt (edField w))
  | 0x22 => whenZero (eaField w == 0 && ebField w == 0) (.intt (edField w))
  | 0x30 => .ok (.pwadd (edField w) (eaField w) (ebField w))
  | 0x31 => .ok (.pwsub (edField w) (eaField w) (ebField w))
  | 0x32 => .ok (.pwmul (edField w) (eaField w) (ebField w))
  | 0x40 => whenZero (eaField w == 0) (.matvec (edField w) (ebField w))
  | _ => .error .reservedOpcode

/-- The decoder of a unit with `nslot` slots on the 64-bit word written to CMD: the four steps of
R96, in order. -/
def decode (nslot : Nat) (v : Word) : Except Illegal Instr :=
  if v.extractLsb' 32 32 != 0 then .error .highBits
  else
    match decodeFields (v.extractLsb' 0 32) with
    | .error e => .error e
    | .ok i => if i.wellFormed nslot then .ok i else .error .slotOutOfRange

/-- The host's view of the decoder (log 15): bits above `nbits` are 0, and NSLOT is that of both named
configurations, 32 (R8). -/
def decodeTableWord (nbits w : Nat) : Option Instr :=
  match decode Config.toy.nslot (BitVec.ofNat 64 (w % 2 ^ nbits)) with
  | .ok i => some i
  | .error _ => none

/-! ## Encoding -/

/-- A format S word (R91). -/
def formatS (opcode : BitVec 8) (rd rs1 rs2 : RegNo) (imm : BitVec 12) : CmdWord :=
  opcode ++ rd ++ rs1 ++ rs2 ++ imm

/-- A format E word (R92). -/
def formatE (opcode : BitVec 8) (ed ea eb : SlotNo) : CmdWord :=
  opcode ++ ed ++ ea ++ eb

/-- The command word of an instruction (R93, R95). -/
def encode : Instr → CmdWord
  | .cred rd rs1 => formatS 0x01 rd rs1 0 0
  | .modadd rd rs1 rs2 => formatS 0x02 rd rs1 rs2 0
  | .modsub rd rs1 rs2 => formatS 0x03 rd rs1 rs2 0
  | .modmul rd rs1 rs2 => formatS 0x04 rd rs1 rs2 0
  | .moddiv rd rs1 rs2 => formatS 0x05 rd rs1 rs2 0
  | .modexp rd rs1 rs2 => formatS 0x06 rd rs1 rs2 0
  | .modinv rd rs1 => formatS 0x07 rd rs1 0 0
  | .bitrev rd rs1 k => formatS 0x10 rd rs1 0 (k.setWidth 12)
  | .zfind rd neg => formatS 0x11 rd 0 0 ((BitVec.ofBool neg).setWidth 12)
  | .zgen rs1 => formatS 0x12 0 rs1 0 0
  | .ecreate ed => formatE 0x20 ed 0 0
  | .ntt ed => formatE 0x21 ed 0 0
  | .intt ed => formatE 0x22 ed 0 0
  | .pwadd ed ea eb => formatE 0x30 ed ea eb
  | .pwsub ed ea eb => formatE 0x31 ed ea eb
  | .pwmul ed ea eb => formatE 0x32 ed ea eb
  | .matvec ed eb => formatE 0x40 ed 0 eb

/-- The 64-bit word the host writes to CMD for an instruction (R90). -/
def encodeWord (i : Instr) : Word := (encode i).setWidth 64

/-! ## The opcode map as rows (R93) -/

/-- A row of R93: a word selects it when `word &&& mask = pat`. -/
structure OpcodeRow where
  pat : CmdWord
  mask : CmdWord
  deriving DecidableEq, Repr

def OpcodeRow.selects (r : OpcodeRow) (w : CmdWord) : Bool := w &&& r.mask == r.pat

/-- The `match` and `mask` columns of R93, in the order of the table. -/
def opcodeRows : List OpcodeRow :=
  [⟨0x01000000, 0xFF00FFFF⟩, ⟨0x02000000, 0xFF000FFF⟩, ⟨0x03000000, 0xFF000FFF⟩, ⟨0x04000000, 0xFF000FFF⟩,
   ⟨0x05000000, 0xFF000FFF⟩, ⟨0x06000000, 0xFF000FFF⟩, ⟨0x07000000, 0xFF00FFFF⟩, ⟨0x10000000, 0xFF00FFC0⟩,
   ⟨0x11000000, 0xFF0FFFFE⟩, ⟨0x12000000, 0xFFF0FFFF⟩, ⟨0x20000000, 0xFF00FFFF⟩, ⟨0x21000000, 0xFF00FFFF⟩,
   ⟨0x22000000, 0xFF00FFFF⟩, ⟨0x30000000, 0xFF000000⟩, ⟨0x31000000, 0xFF000000⟩, ⟨0x32000000, 0xFF000000⟩,
   ⟨0x40000000, 0xFF00FF00⟩]

/-- The row of R93 that an instruction belongs to. -/
def Instr.row : Instr → OpcodeRow
  | .cred _ _ => ⟨0x01000000, 0xFF00FFFF⟩
  | .modadd _ _ _ => ⟨0x02000000, 0xFF000FFF⟩
  | .modsub _ _ _ => ⟨0x03000000, 0xFF000FFF⟩
  | .modmul _ _ _ => ⟨0x04000000, 0xFF000FFF⟩
  | .moddiv _ _ _ => ⟨0x05000000, 0xFF000FFF⟩
  | .modexp _ _ _ => ⟨0x06000000, 0xFF000FFF⟩
  | .modinv _ _ => ⟨0x07000000, 0xFF00FFFF⟩
  | .bitrev _ _ _ => ⟨0x10000000, 0xFF00FFC0⟩
  | .zfind _ _ => ⟨0x11000000, 0xFF0FFFFE⟩
  | .zgen _ => ⟨0x12000000, 0xFFF0FFFF⟩
  | .ecreate _ => ⟨0x20000000, 0xFF00FFFF⟩
  | .ntt _ => ⟨0x21000000, 0xFF00FFFF⟩
  | .intt _ => ⟨0x22000000, 0xFF00FFFF⟩
  | .pwadd _ _ _ => ⟨0x30000000, 0xFF000000⟩
  | .pwsub _ _ _ => ⟨0x31000000, 0xFF000000⟩
  | .pwmul _ _ _ => ⟨0x32000000, 0xFF000000⟩
  | .matvec _ _ => ⟨0x40000000, 0xFF00FF00⟩

end Sys2Proof
end

