-- ==== Sys2Proof/Machine/State.lean ====
section
/-!
DEFINITION. The state of one unit (10_state.md R20), the reasons a step can stop, and the state after
reset (R42). Plain data throughout.
-/
namespace Sys2Proof.Machine

/-- The three form tags of a slot (R25). -/
structure Tags where
  /-- InNTTForm: frequency domain when set -/
  ntt : Bool
  /-- InMontgomeryForm, the reserved radix marker -/
  mont : Bool
  /-- IsNegacyclic -/
  neg : Bool
  deriving DecidableEq, Repr

/-- One ring-element slot (R24 to R26): PRESENT, the tags and the coefficients c[0], c[1], …. -/
structure Slot where
  present : Bool
  tags : Tags
  coeffs : List Word
  deriving DecidableEq, Repr

/-- A slot as reset leaves it (R42): absent, tags 0, `n` coefficients 0. -/
def Slot.absent (n : Nat) : Slot :=
  { present := false, tags := { ntt := false, mont := false, neg := false }, coeffs := List.replicate n 0 }

/-- The storage of the unit: the slots E[0], E[1], … (R24) and the zeta table Z[0], Z[1], … (R28). -/
structure Memory where
  slots : List Slot
  zeta : List Word
  deriving DecidableEq, Repr

/-- The storage after reset (R42). -/
def Memory.reset (c : Config) : Memory :=
  { slots := List.replicate c.nslot (Slot.absent c.n), zeta := List.replicate (2 * c.n) 0 }

/-- A slot of a unit with `n` coefficients per element: exactly `n` of them, and, while the slot is
absent, everything as reset left it (R24, R42), so that equal observable contents are equal data. -/
def Slot.wf (n : Nat) (e : Slot) : Bool :=
  e.coeffs.length == n && (e.present || e == Slot.absent n)

/-- The canonical form of the storage of a unit with configuration `c` (R8, R24, R28). -/
def Memory.wf (c : Config) (m : Memory) : Bool :=
  m.slots.length == c.nslot && m.slots.all (Slot.wf c.n) && m.zeta.length == 2 * c.n

/-- The status codes of 60_exceptions.md R242; no other code is ever written to STATUS.CODE. -/
inductive StatusCode where
  | ok
  | illegalCmd
  | noInverse
  | rootNotFound
  | elementAbsent
  | tableAbsent
  | wrongDomain
  | notNegacyclic
  | notNttForm
  | montgomeryMismatch
  | dimMismatch
  | badOperandTags
  | badShape
  deriving DecidableEq, Repr

/-- One operation of the host: the two access primitives (20_memory.md R62, R63) and the assertion of
`rst` (70_reset_and_hazards.md R280). -/
inductive HostOp where
  | read (addr : Addr)
  | write (addr : Addr) (value : Word)
  | reset
  deriving DecidableEq, Repr

/-- The host port. Both fields are the model's own (log 2, log 3): the operations the host has still
to issue, oldest first, and the words answered to its reads (h_rdata of R77), oldest first. -/
structure Port where
  pending : List HostOp
  answers : List Word
  deriving DecidableEq, Repr

/-- The whole state: R20 (a) to (d), the configuration as a read-only field (log 1), and the port. -/
structure State where
  /-- (Q, LOGN, NSLOT), never changed by a step (R5, R8, R9, R36) -/
  cfg : Config
  /-- S[0] … S[15] (R21) -/
  sregs : Vector Word 16
  /-- the slots and the table (R24, R28) -/
  mem : Memory
  /-- ZPRESENT (R29) -/
  zpresent : Bool
  /-- STATUS.CODE (R34) -/
  code : StatusCode
  /-- STATUS.STICKY (R34) -/
  sticky : Bool
  /-- ERRINFO (R35) -/
  errinfo : Word
  /-- MBASE (R37) -/
  mbase : Half
  /-- MROWS (R37) -/
  mrows : Half
  /-- MCOLS (R37) -/
  mcols : Half
  /-- VLEN (R37) -/
  vlen : Half
  /-- the host port (log 2, log 3) -/
  port : Port
  deriving DecidableEq, Repr

/-- The reasons for which a step stops the machine. There is none: every command completes and the
unit has no trap, no fatal stop and no hang (R240, R289; log 9). -/
inductive Fault where
  deriving DecidableEq, Repr

/-- The reasons for which the model gives a step no meaning. -/
inductive Refusal where
  /-- raised by an arm of `exec` whose instruction has no meaning yet; safe. No arm raises it. -/
  | notModelled (mnemonic : String)
  deriving DecidableEq, Repr

/-- The state after reset of a unit with configuration `c` (R42). -/
def State.resetOf (c : Config) : State where
  cfg := c
  sregs := Vector.replicate 16 0
  mem := Memory.reset c
  zpresent := false
  code := .ok
  sticky := false
  errinfo := 0
  mbase := 0
  mrows := 0
  mcols := 0
  vlen := 0
  port := { pending := [], answers := [] }

/-- The machine right after reset (R42), in the TOY configuration (log 1). -/
def State.reset : State := State.resetOf Config.toy

end Sys2Proof.Machine
end

