-- ==== Sys2Proof/Machine/Flags.lean ====
section
/-!
DEFINITION. The status-like words of the unit as bits: tag triples (00_scope.md R15), the TAGS word
(20_memory.md R65), status codes (60_exceptions.md R242), the STATUS word (10_state.md R32) and
ERRINFO (60_exceptions.md R245). The unit has no arithmetic flag (10_state.md R40).
-/
namespace Sys2Proof.Machine

/-! ## Tags -/

/-- A tag triple as the 3-bit number InNTTForm + 2·InMontgomeryForm + 4·IsNegacyclic (R15). -/
def Tags.toBits (t : Tags) : BitVec 3 := BitVec.ofBool t.neg ++ BitVec.ofBool t.mont ++ BitVec.ofBool t.ntt

/-- (v[0], v[1], v[2]) of R65. -/
def Tags.ofWord (v : Word) : Tags := { ntt := v.getLsbD 0, mont := v.getLsbD 1, neg := v.getLsbD 2 }

/-- The created default (0,0,1) (R230). -/
def Tags.created : Tags := { ntt := false, mont := false, neg := true }

/-- (1,0,1), what MATVEC requires and writes (R207, R209). -/
def Tags.frequency : Tags := { ntt := true, mont := false, neg := true }

def Tags.withNtt (t : Tags) (b : Bool) : Tags := { t with ntt := b }
def Tags.withMont (t : Tags) (b : Bool) : Tags := { t with mont := b }
def Tags.withNeg (t : Tags) (b : Bool) : Tags := { t with neg := b }

/-- The TAGS word of a slot: ntt + 2·mont + 4·neg + 8 when present, 0 when absent (R65). -/
def Slot.tagsWord (e : Slot) : Word :=
  if e.present then (1#1 ++ e.tags.toBits).setWidth 64 else 0

/-! ## Status -/

/-- The number of a status code (R242). -/
def StatusCode.toBits : StatusCode → BitVec 8
  | .ok => 0
  | .illegalCmd => 1
  | .noInverse => 2
  | .rootNotFound => 3
  | .elementAbsent => 4
  | .tableAbsent => 5
  | .wrongDomain => 6
  | .notNegacyclic => 7
  | .notNttForm => 8
  | .montgomeryMismatch => 9
  | .dimMismatch => 10
  | .badOperandTags => 11
  | .badShape => 12

/-- The STATUS word: [7:0] CODE, [8] STICKY (R32). -/
def statusWord (code : StatusCode) (sticky : Bool) : Word :=
  (BitVec.ofBool sticky ++ code.toBits).setWidth 64

/-! ## ERRINFO -/

/-- The OPERAND field of ERRINFO (R245). -/
inductive ErrOperand where
  | none
  | a
  | b
  | matrix
  | vector
  | output
  | table
  | scalar
  deriving DecidableEq, Repr

def ErrOperand.toBits : ErrOperand → BitVec 4
  | .none => 0
  | .a => 1
  | .b => 2
  | .matrix => 3
  | .vector => 4
  | .output => 5
  | .table => 6
  | .scalar => 7

/-- The fields of ERRINFO (R245); a field a rule does not name is 0. -/
structure ErrFields where
  operand : ErrOperand := .none
  slot : BitVec 16 := 0
  col : BitVec 16 := 0
  row : BitVec 16 := 0
  expected : BitVec 3 := 0
  actual : BitVec 3 := 0
  deriving DecidableEq, Repr

/-- ERRINFO as a word: [15:0] SLOT, [31:16] COL, [47:32] ROW, [50:48] EXPECTED, [54:52] ACTUAL,
[59:56] OPERAND, the other bits 0 (R245). -/
def ErrFields.toWord (f : ErrFields) : Word :=
  0#4 ++ f.operand.toBits ++ 0#1 ++ f.actual ++ 0#1 ++ f.expected ++ f.row ++ f.col ++ f.slot

/-- The bits of ERRINFO that no field of R245 covers. -/
def errInfoReserved : Word := 0xF088_0000_0000_0000

end Sys2Proof.Machine
end

