-- ==== Sys2Proof/Machine/Ops.lean ====
section
/-!
DEFINITION. The named operations over the state: scalar registers, slots, the table, the completion of
a command (60_exceptions.md R241, R243), and reset (70_reset_and_hazards.md R280). This unit has no
trap: completing with a code other than OK is what "taking an exception" is on it (R240), it is the one
operation `State.complete`, and there is no return operation (R244).
-/
namespace Sys2Proof.Machine

/-- What a step of this machine answers. -/
abbrev Answer := Host.Outcome State Fault Refusal

/-! ## Signed words (R7, R10) -/

/-- `s64` of R10: the signed integer a pattern stands for. -/
def s64 (p : Word) : Int := p.toInt

/-- The pattern that stores the signed value `v`: `v` mod 2^64 (R10). -/
def pattern (v : Int) : Word := BitVec.ofInt 64 v

/-! ## Scalar registers (R21, R22) -/

/-- The pattern of S[r]. -/
def State.sregWord (s : State) (r : RegNo) : Word := s.sregs[r.toNat]'r.isLt

/-- S[r] read as a signed integer (R14). -/
def State.sreg (s : State) (r : RegNo) : Int := s64 (s.sregWord r)

/-- Store a pattern in S[r]. -/
def State.setSregWord (s : State) (r : RegNo) (w : Word) : State :=
  { s with sregs := s.sregs.set r.toNat w r.isLt }

/-- `S[r] <- v` (R14); every value a rule stores fits (R135; log 14). -/
def State.setSreg (s : State) (r : RegNo) (v : Int) : State := s.setSregWord r (pattern v)

/-! ## Slots (R24 to R27) -/

/-- Slot k; past the last slot, an absent one (log 6). -/
def State.slot (s : State) (k : Nat) : Slot := s.mem.slots.getD k (Slot.absent s.cfg.n)

/-- Replace slot k; past the last slot nothing changes (log 6). -/
def State.setSlot (s : State) (k : Nat) (e : Slot) : State :=
  { s with mem := { s.mem with slots := s.mem.slots.set k e } }

/-- The coefficients of a slot as signed integers (R24). -/
def Slot.values (e : Slot) : List Int := e.coeffs.map s64

/-- E[k].c[j] as a signed integer (R14). -/
def State.coeff (s : State) (k j : Nat) : Int := (s.slot k).values.getD j 0

/-- Write all coefficients and the tags of slot k and make it present: a fresh result (R204, R209,
R230), or a transform in place (R175, R177), which only runs on a present slot. -/
def State.setElement (s : State) (k : Nat) (tags : Tags) (values : List Int) : State :=
  s.setSlot k { present := true, tags := tags, coeffs := values.map pattern }

/-! ## Zeta table (R28, R29) -/

/-- The pattern of Z[i]; past the table, 0 (log 6). -/
def State.zetaWord (s : State) (i : Nat) : Word := s.mem.zeta.getD i 0

/-- The table as signed integers (R178). -/
def State.zetas (s : State) : List Int := s.mem.zeta.map s64

/-- Replace the whole table (R155). -/
def State.setZetas (s : State) (values : List Int) : State :=
  { s with mem := { s.mem with zeta := values.map pattern } }

/-- Store a pattern in Z[i] (R66). -/
def State.setZetaWord (s : State) (i : Nat) (w : Word) : State :=
  { s with mem := { s.mem with zeta := s.mem.zeta.set i w } }

def State.setZpresent (s : State) (b : Bool) : State := { s with zpresent := b }

/-! ## Completion (R240, R241, R243) -/

/-- `complete(code, info)`: CODE and ERRINFO are written, STICKY is set by a code other than OK and
kept by OK (R241, R243); nothing else changes. -/
def State.complete (s : State) (code : StatusCode) (info : ErrFields) : State :=
  { s with code := code, errinfo := info.toWord, sticky := s.sticky || code != .ok }

/-- `complete(OK)` after the command's writes (R241). -/
def State.completeOk (s : State) : State := s.complete .ok {}

/-- The code and the context a failing check reports. -/
structure Failure where
  code : StatusCode
  info : ErrFields
  deriving DecidableEq, Repr

/-- One check of a command: it fails when `bad` holds. -/
def check (bad : Bool) (code : StatusCode) (info : ErrFields) : Option Failure :=
  if bad then some { code := code, info := info } else none

/-- The first failing check, in the order listed (R247). -/
def firstFailure : List (Option Failure) → Option Failure
  | [] => none
  | some f :: _ => some f
  | none :: rest => firstFailure rest

/-- A command ends: on the first failing check with its code and context and no other write (R243),
else with the state after its writes and OK (R241). -/
def State.conclude (s : State) (failure : Option Failure) (finished : State) : Answer :=
  match failure with
  | some f => .next (s.complete f.code f.info)
  | none => .next finished.completeOk

/-! ## Reset (R280) -/

/-- The assertion of `rst`: every piece of state takes its value of R42; the configuration is not
affected, and the port belongs to the host (log 4). -/
def State.assertReset (s : State) : State := { State.resetOf s.cfg with port := s.port }

end Sys2Proof.Machine
end

