-- ==== Sys2Proof/Machine/Operands.lean ====
section
/-!
DEFINITION. The operand forms of the commands and the checks they share: slot fields (30_encoding.md
R94), an element that must be present, the element of a transform (42_ntt_engine.md R175, R177), the
operands of a pointwise command (43_matrix_vector.md R200) and the runs of MATVEC (10_state.md R30, R31;
43_matrix_vector.md R206).
-/
namespace Sys2Proof.Machine

/-- A used slot field ≥ NSLOT makes the command illegal (R94). The decoder refuses such a word before
`exec` runs (R96); `exec` says the same of a command built by hand (log 7). -/
def State.slotFieldCheck (s : State) (i : Instr) : Option Failure :=
  check (!i.wellFormed s.cfg.nslot) .illegalCmd {}

/-! ## Elements -/

/-- The element named by a slot field. -/
def State.element (s : State) (k : SlotNo) : Slot := s.slot k.toNat

/-- The context of a check on the element in a slot field, without tags (R246). -/
def slotInfo (operand : ErrOperand) (k : SlotNo) : ErrFields :=
  { operand := operand, slot := k.setWidth 16 }

/-- The context of a check on an element's tags (R246). -/
def tagsInfo (operand : ErrOperand) (k : SlotNo) (expected actual : Tags) : ErrFields :=
  { operand := operand, slot := k.setWidth 16, expected := expected.toBits, actual := actual.toBits }

/-- ELEMENT_ABSENT when slot k is absent (R175, R177, R200). -/
def State.absentCheck (s : State) (operand : ErrOperand) (k : SlotNo) : Option Failure :=
  check (!(s.element k).present) .elementAbsent (slotInfo operand k)

/-- TABLE_ABSENT when ZPRESENT = 0 (R175, R177). -/
def State.tableCheck (s : State) : Option Failure := check (!s.zpresent) .tableAbsent { operand := .table }

/-- WRONG_DOMAIN when the element is already in the domain `target` (R175, R177). -/
def State.domainCheck (s : State) (k : SlotNo) (target : Bool) : Option Failure :=
  let tags := (s.element k).tags
  check (tags.ntt == target) .wrongDomain (tagsInfo .a k (tags.withNtt (!target)) tags)

/-- NOT_NEGACYCLIC when neg = 0 (R175). -/
def State.negacyclicCheck (s : State) (k : SlotNo) : Option Failure :=
  let tags := (s.element k).tags
  check (!tags.neg) .notNegacyclic (tagsInfo .a k (tags.withNeg true) tags)

/-- NOT_NTT_FORM when a pointwise operand has ntt = 0 (R200). -/
def State.nttFormCheck (s : State) (operand : ErrOperand) (k : SlotNo) : Option Failure :=
  let tags := (s.element k).tags
  check (!tags.ntt) .notNttForm (tagsInfo operand k (tags.withNtt true) tags)

/-- MONTGOMERY_MISMATCH when the operands differ in mont (R200). -/
def State.montgomeryCheck (s : State) (ea eb : SlotNo) : Option Failure :=
  let ta := (s.element ea).tags
  let tb := (s.element eb).tags
  check (ta.mont != tb.mont) .montgomeryMismatch (tagsInfo .b eb (tb.withMont ta.mont) tb)

/-! ## Scalars -/

/-- The context of NO_INVERSE: OPERAND = SCALAR and the register number (R246). -/
def scalarInfo (r : RegNo) : ErrFields := { operand := .scalar, slot := r.setWidth 16 }

/-! ## The runs of MATVEC -/

/-- Matrix entry (i, j) is slot MBASE + i·MCOLS + j (R30, R206). -/
def State.matrixSlot (s : State) (i j : Nat) : Nat := s.mbase.toNat + i * s.mcols.toNat + j

/-- Vector entry j is slot eb + j (R31, R206). -/
def vectorSlot (eb : SlotNo) (j : Nat) : Nat := eb.toNat + j

/-- Output entry i is slot ed + i (R31, R206). -/
def outputSlot (ed : SlotNo) (i : Nat) : Nat := ed.toNat + i

/-- Two non-empty runs of slots share a slot. -/
def runsMeet (base₁ len₁ base₂ len₂ : Nat) : Bool :=
  decide (base₁ < base₂ + len₂) && decide (base₂ < base₁ + len₁)

/-- An input entry of MATVEC: which operand it belongs to, its slot and its indices. -/
structure Entry where
  operand : ErrOperand
  slot : Nat
  row : Nat
  col : Nat
  deriving DecidableEq, Repr

/-- The matrix entries, row-major (R207 check 7). -/
def State.matrixEntries (s : State) : List Entry :=
  (List.range s.mrows.toNat).flatMap fun i =>
    (List.range s.mcols.toNat).map fun j => { operand := .matrix, slot := s.matrixSlot i j, row := i, col := j }

/-- The vector entries in index order, ROW = 0 (R207 check 8). -/
def State.vectorEntries (s : State) (eb : SlotNo) : List Entry :=
  (List.range s.vlen.toNat).map fun j => { operand := .vector, slot := vectorSlot eb j, row := 0, col := j }

/-- The context of a check on an entry, without tags (R246). -/
def Entry.info (e : Entry) : ErrFields :=
  { operand := e.operand, slot := BitVec.ofNat 16 e.slot, row := BitVec.ofNat 16 e.row, col := BitVec.ofNat 16 e.col }

/-- Absent before tags (R207 checks 7 and 8, R247): an entry must be present with tags (1,0,1). -/
def State.entryCheck (s : State) (e : Entry) : Option Failure :=
  let tags := (s.slot e.slot).tags
  firstFailure
    [check (!(s.slot e.slot).present) .elementAbsent e.info,
     check (tags != Tags.frequency) .badOperandTags
       { e.info with expected := Tags.frequency.toBits, actual := tags.toBits }]

end Sys2Proof.Machine
end

