-- ==== Sys2Proof/Machine/Element.lean ====
section
/-!
DEFINITION. Ring-element creation (44_ring_element.md).
-/
namespace Sys2Proof.Machine

/-- ECREATE (R230): N zero coefficients, tags (0,0,1), present, whatever the slot held. -/
def execEcreate (ed : SlotNo) (s : State) : Answer :=
  s.conclude (s.slotFieldCheck (.ecreate ed))
    (s.setElement ed.toNat Tags.created (List.replicate s.cfg.n 0))

end Sys2Proof.Machine
end

