-- ==== Sys2Proof/Machine/Arith.lean ====
section
/-!
DEFINITION. The pure functions of 40_modular_arithmetic.md on exact integers (R120 to R131), bit
reversal and the root search and table of 41_zeta_table.md (R150 to R154). `q` is Q throughout; `%`
on `Int` with a positive modulus is the floored remainder of R12.
-/
namespace Sys2Proof.Machine

/-- `x mod Q` (R12). -/
def rawResidue (q : Nat) (x : Int) : Int := x % (q : Int)

/-- H = (Q − 1) / 2 (R13). -/
def halfOf (q : Nat) : Int := ((q : Int) - 1) / 2

/-- `centeredReduce(x)` (R120). -/
def centeredReduce (q : Nat) (x : Int) : Int :=
  if halfOf q < rawResidue q x then rawResidue q x - q else rawResidue q x

/-- The same function from the truncated remainder (R121). -/
def centeredReduceTrunc (q : Nat) (x : Int) : Int :=
  if halfOf q < x.tmod q then x.tmod q - q
  else if x.tmod q < -halfOf q then x.tmod q + q
  else x.tmod q

/-- `addMod` (R123). -/
def addMod (q : Nat) (a b : Int) : Int := centeredReduce q (a + b)

/-- `subtractMod` (R124). -/
def subtractMod (q : Nat) (a b : Int) : Int := centeredReduce q (a - b)

/-- `multiplyMod` (R125). -/
def multiplyMod (q : Nat) (a b : Int) : Int := centeredReduce q (a * b)

/-- The recursion of R127, with fuel that bounds its depth. -/
def expModFuel (q : Nat) (base : Int) : Nat → Int → Int
  | 0, _ => 1
  | fuel + 1, e =>
    if e ≤ 0 then 1
    else if e = 1 then rawResidue q base
    else
      let h := expModFuel q base fuel (e / 2)
      let r := rawResidue q (h * h)
      if e % 2 = 1 then rawResidue q (r * base) else r

/-- `expMod(base, e)` (R127). -/
def expMod (q : Nat) (base e : Int) : Int := expModFuel q base e.toNat e

/-- The extended Euclid loop of R129 on (t, t′, r, r′), with fuel that bounds the number of turns; the
answer is the final t (log 10). -/
def euclidFuel : Nat → Int → Int → Int → Int → Int
  | 0, t, _, _, _ => t
  | fuel + 1, t, t', r, r' =>
    if r' = 0 then t
    else euclidFuel fuel t' (t - r / r' * t') r' (r - r / r' * r')

/-- `modInverse(a)` (R129): `none` when a mod Q = 0, else the centred inverse. -/
def modInverse (q : Nat) (a : Int) : Option Int :=
  if rawResidue q a = 0 then none
  else some (centeredReduce q (euclidFuel (q + 1) 0 1 q (rawResidue q a)))

/-- `divideMod(a, b)` (R131). -/
def divideMod (q : Nat) (a b : Int) : Option Int := (modInverse q b).map (multiplyMod q a)

/-- `bitReverse(t, k)` (R150): the sum over i < k of t[i] · 2^(k−1−i). -/
def bitReverse (t k : Nat) : Nat :=
  ((List.range k).map fun i => (t.testBit i).toNat * 2 ^ (k - 1 - i)).sum

/-- The ascending search of R152 over `count` candidates from `z`. -/
def findRootFrom (q : Nat) (e : Int) : (count z : Nat) → Option Nat
  | 0, _ => none
  | count + 1, z => if expMod q z e = (q : Int) - 1 then some z else findRootFrom q e count (z + 1)

/-- k of R152: LOGN for the negacyclic search, LOGN − 1 for the cyclic one. -/
def rootExponent (c : Config) (negacyclic : Bool) : Nat := if negacyclic then c.logN else c.logN - 1

/-- `zetaFinder(negacyclic)` (R152). -/
def zetaFinder (c : Config) (negacyclic : Bool) : Option Nat :=
  findRootFrom c.q (2 ^ rootExponent c negacyclic) c.q 0

/-- T[i] of `genZetasTable(zeta)` (R154). -/
def zetaEntry (c : Config) (zeta : Int) (i : Nat) : Int :=
  if i = 0 then 1 else expMod c.q zeta (bitReverse i c.logN)

/-- `genZetasTable(zeta)` (R154), 2N entries. -/
def genZetasTable (c : Config) (zeta : Int) : List Int :=
  (List.range (2 * c.n)).map (zetaEntry c zeta)

end Sys2Proof.Machine
end

