-- ==== Sys2Proof/Machine/MatVec.lean ====
section
/-!
DEFINITION. Matrix-vector multiply (43_matrix_vector.md R206 to R210).
-/
namespace Sys2Proof.Machine

/-- Checks 1 to 6 of R207, in order: dimensions, empty matrix, the three runs inside the slot array,
and an output run disjoint from both inputs. -/
def State.shapeFailure (s : State) (ed eb : SlotNo) : Option Failure :=
  let rows := s.mrows.toNat
  let cols := s.mcols.toNat
  let vlen := s.vlen.toNat
  let base := s.mbase.toNat
  firstFailure
    [check (decide (cols ≠ vlen)) .dimMismatch { operand := .vector },
     check (decide (rows = 0 ∨ cols = 0)) .badShape { operand := .matrix },
     check (decide (s.cfg.nslot < base + rows * cols)) .badShape { operand := .matrix },
     check (decide (s.cfg.nslot < eb.toNat + vlen)) .badShape { operand := .vector },
     check (decide (s.cfg.nslot < ed.toNat + rows)) .badShape { operand := .output },
     check (runsMeet ed.toNat rows base (rows * cols) || runsMeet ed.toNat rows eb.toNat vlen) .badShape
       { operand := .output }]

/-- Checks 7 and 8 of R207: the first bad entry, matrix before vector. -/
def State.entryFailure (s : State) (eb : SlotNo) : Option Failure :=
  match s.matrixEntries.findSome? s.entryCheck with
  | some f => some f
  | none => (s.vectorEntries eb).findSome? s.entryCheck

/-- The checks of MATVEC, in order (R207). -/
def State.matvecFailure (s : State) (ed eb : SlotNo) : Option Failure :=
  match s.shapeFailure ed eb with
  | some f => some f
  | none => s.entryFailure eb

/-- The product of matrix entry (i, j) and vector entry j, coefficient by coefficient (R208). -/
def State.entryProduct (s : State) (eb : SlotNo) (i j : Nat) : List Int :=
  List.zipWith (multiplyMod s.cfg.q) (s.slot (s.matrixSlot i j)).values (s.slot (vectorSlot eb j)).values

/-- Row i: the products accumulated left to right, starting from the first (R208). -/
def State.rowResult (s : State) (eb : SlotNo) (i : Nat) : List Int :=
  (List.range' 1 (s.mcols.toNat - 1)).foldl
    (fun acc j => List.zipWith (addMod s.cfg.q) acc (s.entryProduct eb i j)) (s.entryProduct eb i 0)

/-- All rows computed from `s` and written to the output run (R209, R210). -/
def State.matvecResult (s : State) (ed eb : SlotNo) : State :=
  (List.range s.mrows.toNat).foldl
    (fun t i => t.setElement (outputSlot ed i) Tags.frequency (s.rowResult eb i)) s

/-- MATVEC (R209). -/
def execMatvec (ed eb : SlotNo) (s : State) : Answer :=
  s.conclude (s.matvecFailure ed eb) (s.matvecResult ed eb)

end Sys2Proof.Machine
end

