-- ==== Sys2Proof/Machine/Pointwise.lean ====
section
/-!
DEFINITION. The pointwise commands (43_matrix_vector.md R200 to R205).
-/
namespace Sys2Proof.Machine

/-- The common checks, in order (R200); `i` is the command, for its slot fields (R94). -/
def State.pointwiseFailure (s : State) (i : Instr) (ea eb : SlotNo) : Option Failure :=
  firstFailure
    [s.slotFieldCheck i, s.absentCheck .a ea, s.absentCheck .b eb, s.nttFormCheck .a ea, s.nttFormCheck .b eb,
     s.montgomeryCheck ea eb]

/-- The tags of a fresh result: ntt set, mont of ea, neg the AND of the operands' (R204). -/
def resultTags (ta tb : Tags) : Tags := { ntt := true, mont := ta.mont, neg := ta.neg && tb.neg }

/-- The result of a coefficient-wise operation `f` in slot ed; the operands are taken from the state
before the command (R201, R204, R205). -/
def State.pointwise (s : State) (f : Int → Int → Int) (ed ea eb : SlotNo) : State :=
  s.setElement ed.toNat (resultTags (s.element ea).tags (s.element eb).tags)
    (List.zipWith f (s.element ea).values (s.element eb).values)

/-- PWADD (R201). -/
def execPwadd (ed ea eb : SlotNo) (s : State) : Answer :=
  s.conclude (s.pointwiseFailure (.pwadd ed ea eb) ea eb) (s.pointwise (addMod s.cfg.q) ed ea eb)

/-- PWSUB (R202). -/
def execPwsub (ed ea eb : SlotNo) (s : State) : Answer :=
  s.conclude (s.pointwiseFailure (.pwsub ed ea eb) ea eb) (s.pointwise (subtractMod s.cfg.q) ed ea eb)

/-- PWMUL (R203). -/
def execPwmul (ed ea eb : SlotNo) (s : State) : Answer :=
  s.conclude (s.pointwiseFailure (.pwmul ed ea eb) ea eb) (s.pointwise (multiplyMod s.cfg.q) ed ea eb)

end Sys2Proof.Machine
end

