-- ==== Sys2Proof/Machine/Scalar.lean ====
section
/-!
DEFINITION. The modular arithmetic commands on scalar registers (40_modular_arithmetic.md). Sources are
read before the destination is written (R134).
-/
namespace Sys2Proof.Machine

/-- A command whose result is always defined: `S[rd] <- v; complete(OK)`. -/
def State.scalarResult (s : State) (rd : RegNo) (v : Int) : Answer :=
  s.conclude none (s.setSreg rd v)

/-- A command whose result needs an inverse of S[r]: NO_INVERSE naming r when there is none (R130,
R132), else `S[rd] <- v; complete(OK)`. -/
def State.inverseResult (s : State) (rd r : RegNo) : Option Int → Answer
  | none => s.conclude (some { code := .noInverse, info := scalarInfo r }) s
  | some v => s.conclude none (s.setSreg rd v)

/-- CRED (R122). -/
def execCred (rd rs1 : RegNo) (s : State) : Answer :=
  s.scalarResult rd (centeredReduce s.cfg.q (s.sreg rs1))

/-- MODADD (R123). -/
def execModadd (rd rs1 rs2 : RegNo) (s : State) : Answer :=
  s.scalarResult rd (addMod s.cfg.q (s.sreg rs1) (s.sreg rs2))

/-- MODSUB (R124). -/
def execModsub (rd rs1 rs2 : RegNo) (s : State) : Answer :=
  s.scalarResult rd (subtractMod s.cfg.q (s.sreg rs1) (s.sreg rs2))

/-- MODMUL (R125). -/
def execModmul (rd rs1 rs2 : RegNo) (s : State) : Answer :=
  s.scalarResult rd (multiplyMod s.cfg.q (s.sreg rs1) (s.sreg rs2))

/-- MODDIV (R132): NO_INVERSE names the divisor's register. -/
def execModdiv (rd rs1 rs2 : RegNo) (s : State) : Answer :=
  s.inverseResult rd rs2 (divideMod s.cfg.q (s.sreg rs1) (s.sreg rs2))

/-- MODEXP (R128). -/
def execModexp (rd rs1 rs2 : RegNo) (s : State) : Answer :=
  s.scalarResult rd (expMod s.cfg.q (s.sreg rs1) (s.sreg rs2))

/-- MODINV (R130). -/
def execModinv (rd rs1 : RegNo) (s : State) : Answer :=
  s.inverseResult rd rs1 (modInverse s.cfg.q (s.sreg rs1))

end Sys2Proof.Machine
end

