-- ==== Sys2Proof/Machine/Table.lean ====
section
/-!
DEFINITION. The root-search and zeta-table commands (41_zeta_table.md).
-/
namespace Sys2Proof.Machine

/-- BITREV (R151): the operand is the 64-bit pattern of S[rs1]. -/
def execBitrev (rd rs1 : RegNo) (k : BitVec 6) (s : State) : Answer :=
  s.scalarResult rd (bitReverse (s.sregWord rs1).toNat k.toNat)

/-- ZFIND (R153): ROOT_NOT_FOUND, with ERRINFO 0, when the search is exhausted. -/
def execZfind (rd : RegNo) (neg : Bool) (s : State) : Answer :=
  match zetaFinder s.cfg neg with
  | none => s.conclude (some { code := .rootNotFound, info := {} }) s
  | some z => s.conclude none (s.setSreg rd z)

/-- ZGEN (R155): all 2N words are replaced, whatever ZPRESENT was, and ZPRESENT is set. -/
def execZgen (rs1 : RegNo) (s : State) : Answer :=
  s.conclude none ((s.setZetas (genZetasTable s.cfg (s.sreg rs1))).setZpresent true)

end Sys2Proof.Machine
end

