-- ==== Sys2Proof/Machine/Transform.lean ====
section
/-!
DEFINITION. The NTT butterfly engine (42_ntt_engine.md): the two iteration orders, the butterflies, the
transforms on a coefficient list, and the commands NTT and INTT.
-/
namespace Sys2Proof.Machine

/-! ## stride_iter (R171, R172) -/

/-- One visit of a block: its half length `len`, its first index and the table index drawn for it. -/
structure Block where
  len : Nat
  start : Nat
  k : Nat
  deriving DecidableEq, Repr

/-- `start = 0, 2·len, 4·len, …` while `start < n` (R171, R172). -/
def blockStarts (n len : Nat) : List Nat := (List.range (n / (2 * len))).map (2 * len * ·)

/-- One forward pass: the cursor is incremented before each draw (R171). -/
def forwardPass (len : Nat) : (starts : List Nat) → (k : Nat) → List Block
  | [], _ => []
  | start :: rest, k => { len := len, start := start, k := k + 1 } :: forwardPass len rest (k + 1)

/-- One inverse pass: the cursor is decremented before each draw (R172). -/
def inversePass (len : Nat) : (starts : List Nat) → (k : Nat) → List Block
  | [], _ => []
  | start :: rest, k => { len := len, start := start, k := k - 1 } :: inversePass len rest (k - 1)

/-- `passes` forward passes from half length `len` and cursor `k`; len halves (R171). -/
def forwardPasses (n : Nat) : (passes len k : Nat) → List Block
  | 0, _, _ => []
  | passes + 1, len, k =>
    forwardPass len (blockStarts n len) k ++ forwardPasses n passes (len / 2) (k + (blockStarts n len).length)

/-- `passes` inverse passes from half length `len` and cursor `k`; len doubles (R172). -/
def inversePasses (n : Nat) : (passes len k : Nat) → List Block
  | 0, _, _ => []
  | passes + 1, len, k =>
    inversePass len (blockStarts n len) k ++ inversePasses n passes (2 * len) (k - (blockStarts n len).length)

/-- The forward iteration order: LOGN passes from len = N/2, cursor 0 (R171). -/
def forwardBlocks (logN : Nat) : List Block := forwardPasses (2 ^ logN) logN (2 ^ logN / 2) 0

/-- The inverse iteration order: LOGN passes from len = 1, cursor N (R172). -/
def inverseBlocks (logN : Nat) : List Block := inversePasses (2 ^ logN) logN 1 (2 ^ logN)

/-! ## Butterflies -/

/-- The forward (Cooley–Tukey) butterfly on the pair (j, j + len) (R173). -/
def forwardButterfly (q : Nat) (zeta : Int) (len : Nat) (c : List Int) (j : Nat) : List Int :=
  let cj := c.getD j 0
  let t := multiplyMod q zeta (c.getD (j + len) 0)
  (c.set (j + len) (subtractMod q cj t)).set j (addMod q cj t)

/-- The inverse (Gentleman–Sande) butterfly on the pair (j, j + len) (R176). -/
def inverseButterfly (q : Nat) (zeta : Int) (len : Nat) (c : List Int) (j : Nat) : List Int :=
  let t := c.getD j 0
  let u := c.getD (j + len) 0
  (c.set j (addMod q t u)).set (j + len) (multiplyMod q zeta (subtractMod q t u))

/-- The indices j = start … start + len − 1 of a block (R171, R172). -/
def Block.indices (b : Block) : List Nat := List.range' b.start b.len

/-- A forward block with its zeta drawn once (R174). -/
def forwardBlock (q : Nat) (zetas : List Int) (c : List Int) (b : Block) : List Int :=
  b.indices.foldl (forwardButterfly q (zetas.getD b.k 0) b.len) c

/-- An inverse block with its zeta drawn once and negated, not reduced (R176). -/
def inverseBlock (q : Nat) (zetas : List Int) (c : List Int) (b : Block) : List Int :=
  b.indices.foldl (inverseButterfly q (-zetas.getD b.k 0) b.len) c

/-! ## Transforms -/

/-- `forwardTransform(c, Z)` (R174). -/
def forwardTransform (q logN : Nat) (zetas c : List Int) : List Int :=
  (forwardBlocks logN).foldl (forwardBlock q zetas) c

/-- The pass loop of `inverseTransform` (R176). -/
def inverseLoop (q logN : Nat) (zetas c : List Int) : List Int :=
  (inverseBlocks logN).foldl (inverseBlock q zetas) c

/-- f = modInverse(2^LOGN) (R176); it exists in every configuration of R5. -/
def inverseScale (q logN : Nat) : Int := (modInverse q (2 ^ logN)).getD 0

/-- `inverseTransform(c, Z)` (R176): the pass loop, then every coefficient times f. -/
def inverseTransform (q logN : Nat) (zetas c : List Int) : List Int :=
  (inverseLoop q logN zetas c).map fun x => multiplyMod q x (inverseScale q logN)

/-! ## Commands -/

/-- The checks of NTT, in order (R175). -/
def State.nttFailure (s : State) (ed : SlotNo) : Option Failure :=
  firstFailure
    [s.slotFieldCheck (.ntt ed), s.absentCheck .a ed, s.tableCheck, s.domainCheck ed true, s.negacyclicCheck ed]

/-- The checks of INTT, in order (R177); no negacyclic guard. -/
def State.inttFailure (s : State) (ed : SlotNo) : Option Failure :=
  firstFailure
    [s.slotFieldCheck (.intt ed), s.absentCheck .a ed, s.tableCheck, s.domainCheck ed false]

/-- NTT (R175): the slot is transformed in place and ntt is set; mont and neg stay. -/
def execNtt (ed : SlotNo) (s : State) : Answer :=
  s.conclude (s.nttFailure ed)
    (s.setElement ed.toNat ((s.element ed).tags.withNtt true)
      (forwardTransform s.cfg.q s.cfg.logN s.zetas (s.element ed).values))

/-- INTT (R177): the slot is transformed in place and ntt is cleared; mont and neg stay. -/
def execIntt (ed : SlotNo) (s : State) : Answer :=
  s.conclude (s.inttFailure ed)
    (s.setElement ed.toNat ((s.element ed).tags.withNtt false)
      (inverseTransform s.cfg.q s.cfg.logN s.zetas (s.element ed).values))

end Sys2Proof.Machine
end

