-- ==== Sys2Proof/Machine/Dispatch.lean ====
section
/-!
DEFINITION. The meaning of every command: one arm per constructor of Instr.
-/
namespace Sys2Proof.Machine

def exec (i : Instr) (s : State) : Host.Outcome State Fault Refusal :=
  match i with
  | .cred rd rs1 => Sys2Proof.Machine.execCred rd rs1 s
  | .modadd rd rs1 rs2 => Sys2Proof.Machine.execModadd rd rs1 rs2 s
  | .modsub rd rs1 rs2 => Sys2Proof.Machine.execModsub rd rs1 rs2 s
  | .modmul rd rs1 rs2 => Sys2Proof.Machine.execModmul rd rs1 rs2 s
  | .moddiv rd rs1 rs2 => Sys2Proof.Machine.execModdiv rd rs1 rs2 s
  | .modexp rd rs1 rs2 => Sys2Proof.Machine.execModexp rd rs1 rs2 s
  | .modinv rd rs1 => Sys2Proof.Machine.execModinv rd rs1 s
  | .bitrev rd rs1 k => Sys2Proof.Machine.execBitrev rd rs1 k s
  | .zfind rd neg => Sys2Proof.Machine.execZfind rd neg s
  | .zgen rs1 => Sys2Proof.Machine.execZgen rs1 s
  | .ecreate ed => Sys2Proof.Machine.execEcreate ed s
  | .ntt ed => Sys2Proof.Machine.execNtt ed s
  | .intt ed => Sys2Proof.Machine.execIntt ed s
  | .pwadd ed ea eb => Sys2Proof.Machine.execPwadd ed ea eb s
  | .pwsub ed ea eb => Sys2Proof.Machine.execPwsub ed ea eb s
  | .pwmul ed ea eb => Sys2Proof.Machine.execPwmul ed ea eb s
  | .matvec ed eb => Sys2Proof.Machine.execMatvec ed eb s

end Sys2Proof.Machine
end

