-- ==== Sys2Proof/Machine/HostPort.lean ====
section
/-!
DEFINITION. The host port (20_memory.md): the address map (R61), the read primitive (R62) and every
write but the one to CMD (R63 to R66).
-/
namespace Sys2Proof.Machine

/-- What a host address names (R32, R61); everything else, the reserved control addresses included, is
unmapped (R64). -/
inductive Target where
  | cmd
  | status
  | errinfo
  | cfgQ
  | cfgN
  | cfgLogN
  | cfgNslot
  | zctl
  | mbase
  | mrows
  | mcols
  | vlen
  | sreg (r : RegNo)
  | zeta (i : Nat)
  | coeff (slot j : Nat)
  | tags (slot : Nat)
  | unmapped
  deriving DecidableEq, Repr

/-- The control registers by word address (R32). -/
def controlTarget : Nat → Target
  | 0x00 => .cmd
  | 0x01 => .status
  | 0x02 => .errinfo
  | 0x03 => .cfgQ
  | 0x04 => .cfgN
  | 0x05 => .cfgLogN
  | 0x06 => .cfgNslot
  | 0x07 => .zctl
  | 0x08 => .mbase
  | 0x09 => .mrows
  | 0x0A => .mcols
  | 0x0B => .vlen
  | _ => .unmapped

/-- The word at offset `off` of the window of slot `k` (R61). -/
def slotTarget (c : Config) (k off : Nat) : Target :=
  if c.nslot ≤ k then .unmapped
  else if off = 0x8000 then .tags k
  else if off < c.n then .coeff k off
  else .unmapped

/-- The address map (R61). -/
def hostTarget (c : Config) (addr : Addr) : Target :=
  let a := addr.toNat
  if a < 0x100 then controlTarget a
  else if a < 0x110 then .sreg (BitVec.ofNat 4 (a - 0x100))
  else if a < 0x1_0000 then .unmapped
  else if a < 0x1_0000 + 2 * c.n then .zeta (a - 0x1_0000)
  else if a < 0x100_0000 then .unmapped
  else slotTarget c ((a - 0x100_0000) / 0x1_0000) ((a - 0x100_0000) % 0x1_0000)

/-- The word a target holds (R62, R64, R65, R66); CMD reads 0 (R33). -/
def State.readTarget (s : State) : Target → Word
  | .cmd => 0
  | .status => statusWord s.code s.sticky
  | .errinfo => s.errinfo
  | .cfgQ => BitVec.ofNat 64 s.cfg.q
  | .cfgN => BitVec.ofNat 64 s.cfg.n
  | .cfgLogN => BitVec.ofNat 64 s.cfg.logN
  | .cfgNslot => BitVec.ofNat 64 s.cfg.nslot
  | .zctl => (BitVec.ofBool s.zpresent).setWidth 64
  | .mbase => s.mbase.setWidth 64
  | .mrows => s.mrows.setWidth 64
  | .mcols => s.mcols.setWidth 64
  | .vlen => s.vlen.setWidth 64
  | .sreg r => s.sregWord r
  | .zeta i => s.zetaWord i
  | .coeff k j => if (s.slot k).present then (s.slot k).coeffs.getD j 0 else 0
  | .tags k => (s.slot k).tagsWord
  | .unmapped => 0

/-- `HostRead(addr)` (R62). -/
def hostRead (s : State) (addr : Addr) : Word := s.readTarget (hostTarget s.cfg addr)

/-- The effect of a host write on a target other than CMD (R63 to R66). -/
def State.writeTarget (s : State) (v : Word) : Target → State
  | .cmd => s
  | .status => { s with sticky := s.sticky && !v.getLsbD 8 }
  | .errinfo => s
  | .cfgQ => s
  | .cfgN => s
  | .cfgLogN => s
  | .cfgNslot => s
  | .zctl => s.setZpresent (v.getLsbD 0)
  | .mbase => { s with mbase := v.setWidth 16 }
  | .mrows => { s with mrows := v.setWidth 16 }
  | .mcols => { s with mcols := v.setWidth 16 }
  | .vlen => { s with vlen := v.setWidth 16 }
  | .sreg r => s.setSregWord r v
  | .zeta i => if s.zpresent then s else s.setZetaWord i v
  | .coeff k j =>
    if (s.slot k).present then s.setSlot k { s.slot k with coeffs := (s.slot k).coeffs.set j v } else s
  | .tags k => if (s.slot k).present then s.setSlot k { s.slot k with tags := Tags.ofWord v } else s
  | .unmapped => s

end Sys2Proof.Machine
end

