-- ==== Sys2Proof/Machine/Command.lean ====
section
/-!
DEFINITION. One host operation: a command issued by a write to CMD (10_state.md R33), any other host
write, a host read, or the assertion of `rst`.
-/
namespace Sys2Proof.Machine

/-- A write of `v` to CMD decodes and executes the command at once and completely (R33, R72); an illegal
word completes with ILLEGAL_CMD, ERRINFO 0, and changes nothing else (R97). -/
def runCommand (v : Word) (s : State) : Answer :=
  match decode s.cfg.nslot v with
  | .error _ => s.conclude (some { code := .illegalCmd, info := {} }) s
  | .ok i => exec i s

/-- `HostWrite(addr, v)` (R63). -/
def hostWrite (addr : Addr) (v : Word) (s : State) : Answer :=
  match hostTarget s.cfg addr with
  | .cmd => runCommand v s
  | target => .next (s.writeTarget v target)

/-- The word `w` is answered on h_rdata (R77; log 3). -/
def State.answer (s : State) (w : Word) : State :=
  { s with port := { s.port with answers := s.port.answers ++ [w] } }

/-- The effect of one host operation on the unit. -/
def perform (op : HostOp) (s : State) : Answer :=
  match op with
  | .read addr => .next (s.answer (hostRead s addr))
  | .write addr v => hostWrite addr v s
  | .reset => .next s.assertReset

/-- The host has issued its next operation; `rest` is still to come (R72; log 2). -/
def State.withPending (s : State) (rest : List HostOp) : State :=
  { s with port := { s.port with pending := rest } }

/-- One step: the host's next operation takes effect completely (R72); with none the unit is idle and
keeps all state (R257). -/
def stepPort (s : State) : Answer :=
  match s.port.pending with
  | [] => .next s
  | op :: rest => perform op (s.withPending rest)

/-- The word address of CMD (R32). -/
def cmdAddr : Addr := 0

/-- `s` with a CMD write of the word `w` as the host's next operation (log 2). -/
def State.withCommand (s : State) (w : Word) : State :=
  s.withPending (.write cmdAddr w :: s.port.pending)

end Sys2Proof.Machine
end

