-- ==== Sys2Proof/Machine/Step.lean ====
section
/-!
DEFINITION. One step of the machine, and the host's way to place the next instruction.
-/
namespace Sys2Proof.Machine

def step (s : State) : Host.Outcome State Fault Refusal := stepPort s

/-- `s` with the instruction whose bits are `w` as the very next thing `step` runs: the host's next
operation writes it to CMD (log 2). -/
def State.withFetchWord (s : State) (nbits w : Nat) : State :=
  s.withCommand (BitVec.ofNat 64 (w % 2 ^ nbits))

end Sys2Proof.Machine
end

