-- ==== Sys2Proof/Safety.lean ====
section
/-!
DEFINITION. The terms claims are stated in: the invariant of the machine, how a command ends, frames
(what a command leaves unchanged), centred values, ERRINFO as a number, and the table of R242.
-/
namespace Sys2Proof.Machine

/-! ## The invariant -/

/-- What every step keeps: the configuration meets R5 and R8; the storage has its canonical form (R24,
R28, R42); the bits of ERRINFO that R245 does not list are 0; and ERRINFO is 0 while CODE is OK (R35). -/
structure State.Inv (s : State) : Prop where
  valid : s.cfg.Valid
  memory : s.mem.wf s.cfg = true
  reserved : s.errinfo &&& errInfoReserved = 0
  okInfo : s.code = .ok → s.errinfo = 0

/-! ## Values -/

/-- `v` lies in the centred interval −H … H (R13). -/
def Centred (q : Nat) (v : Int) : Prop := -halfOf q ≤ v ∧ v ≤ halfOf q

/-- `v` is the centred representative of `x`: the unique residue of x in the centred interval (R13). -/
def IsCentredOf (q : Nat) (x v : Int) : Prop := Centred q v ∧ v ≡ x [ZMOD q]

/-- `z` is the table that `genZetasTable(zeta)` gives, as far as the transforms read it (R154, R178). -/
def IsPowerTable (c : Config) (zeta : Int) (z : List Int) : Prop :=
  ∀ i, 1 ≤ i → i < c.n → z.getD i 0 = zetaEntry c zeta i

/-! ## Endings -/

/-- `t` is a state in which a command started on `s` has completed OK (R241). -/
structure CompletedOk (s t : State) : Prop where
  code : t.code = .ok
  errinfo : t.errinfo = 0
  sticky : t.sticky = s.sticky

/-- The state after a command that completes OK, from the state `t` after its writes (R241). -/
def State.endsOk (t : State) : State := { t with code := .ok, errinfo := 0 }

/-- The state after a command that fails on `s`: STATUS and ERRINFO are written, nothing else (R243). -/
def State.failsWith (s : State) (code : StatusCode) (info : Word) : State :=
  { s with code := code, errinfo := info, sticky := true }

/-- A tag triple as a number (R15). -/
def Tags.number (t : Tags) : Nat := t.ntt.toNat + 2 * t.mont.toNat + 4 * t.neg.toNat

/-- ERRINFO as a number, from its fields as numbers (R245). -/
def errWord (operand slot row col expected actual : Nat) : Word :=
  BitVec.ofNat 64
    (slot + col * 2 ^ 16 + row * 2 ^ 32 + expected * 2 ^ 48 + actual * 2 ^ 52 + operand * 2 ^ 56)

/-- The codes a legal command can report (R242, "raised by"). -/
def reportable : Instr → List StatusCode
  | .cred _ _ => [.ok]
  | .modadd _ _ _ => [.ok]
  | .modsub _ _ _ => [.ok]
  | .modmul _ _ _ => [.ok]
  | .moddiv _ _ _ => [.ok, .noInverse]
  | .modexp _ _ _ => [.ok]
  | .modinv _ _ => [.ok, .noInverse]
  | .bitrev _ _ _ => [.ok]
  | .zfind _ _ => [.ok, .rootNotFound]
  | .zgen _ => [.ok]
  | .ecreate _ => [.ok]
  | .ntt _ => [.ok, .elementAbsent, .tableAbsent, .wrongDomain, .notNegacyclic]
  | .intt _ => [.ok, .elementAbsent, .tableAbsent, .wrongDomain]
  | .pwadd _ _ _ => [.ok, .elementAbsent, .notNttForm, .montgomeryMismatch]
  | .pwsub _ _ _ => [.ok, .elementAbsent, .notNttForm, .montgomeryMismatch]
  | .pwmul _ _ _ => [.ok, .elementAbsent, .notNttForm, .montgomeryMismatch]
  | .matvec _ _ => [.ok, .dimMismatch, .badShape, .elementAbsent, .badOperandTags]

/-! ## Frames -/

/-- The fields no command writes (R71): the configuration, MBASE, MROWS, MCOLS, VLEN; and the port. -/
structure SameControl (s t : State) : Prop where
  cfg : t.cfg = s.cfg
  mbase : t.mbase = s.mbase
  mrows : t.mrows = s.mrows
  mcols : t.mcols = s.mcols
  vlen : t.vlen = s.vlen
  port : t.port = s.port

/-- Nothing but S[rd], STATUS and ERRINFO differs (R133, R158). -/
structure ScalarFrame (rd : RegNo) (s t : State) : Prop where
  control : SameControl s t
  sregs : ∀ r, r ≠ rd → t.sregWord r = s.sregWord r
  mem : t.mem = s.mem
  zpresent : t.zpresent = s.zpresent

/-- Nothing but the slots listed by `written`, STATUS and ERRINFO differs (R180, R212). -/
structure SlotFrame (written : Nat → Prop) (s t : State) : Prop where
  control : SameControl s t
  sregs : t.sregs = s.sregs
  slots : ∀ k, ¬ written k → t.slot k = s.slot k
  count : t.mem.slots.length = s.mem.slots.length
  zeta : t.mem.zeta = s.mem.zeta
  zpresent : t.zpresent = s.zpresent

/-- The scalar register a command writes, if it writes one. -/
def scalarDest : Instr → Option RegNo
  | .cred rd _ => some rd
  | .modadd rd _ _ => some rd
  | .modsub rd _ _ => some rd
  | .modmul rd _ _ => some rd
  | .moddiv rd _ _ => some rd
  | .modexp rd _ _ => some rd
  | .modinv rd _ => some rd
  | .bitrev rd _ _ => some rd
  | .zfind rd _ => some rd
  | .zgen _ => none
  | .ecreate _ => none
  | .ntt _ => none
  | .intt _ => none
  | .pwadd _ _ _ => none
  | .pwsub _ _ _ => none
  | .pwmul _ _ _ => none
  | .matvec _ _ => none

/-- The scalar registers a command reads. -/
def scalarSources : Instr → List RegNo
  | .cred _ rs1 => [rs1]
  | .modadd _ rs1 rs2 => [rs1, rs2]
  | .modsub _ rs1 rs2 => [rs1, rs2]
  | .modmul _ rs1 rs2 => [rs1, rs2]
  | .moddiv _ rs1 rs2 => [rs1, rs2]
  | .modexp _ rs1 rs2 => [rs1, rs2]
  | .modinv _ rs1 => [rs1]
  | .bitrev _ rs1 _ => [rs1]
  | .zfind _ _ => []
  | .zgen rs1 => [rs1]
  | .ecreate _ => []
  | .ntt _ => []
  | .intt _ => []
  | .pwadd _ _ _ => []
  | .pwsub _ _ _ => []
  | .pwmul _ _ _ => []
  | .matvec _ _ => []

/-- The slot that a command other than MATVEC writes, if it writes one. -/
def slotDest : Instr → Option SlotNo
  | .cred _ _ => none
  | .modadd _ _ _ => none
  | .modsub _ _ _ => none
  | .modmul _ _ _ => none
  | .moddiv _ _ _ => none
  | .modexp _ _ _ => none
  | .modinv _ _ => none
  | .bitrev _ _ _ => none
  | .zfind _ _ => none
  | .zgen _ => none
  | .ecreate ed => some ed
  | .ntt ed => some ed
  | .intt ed => some ed
  | .pwadd ed _ _ => some ed
  | .pwsub ed _ _ => some ed
  | .pwmul ed _ _ => some ed
  | .matvec _ _ => none

/-- The words of the host space that a command may write, by what they name; each command also writes
STATUS and ERRINFO (R133, R158, R180, R212, R230). -/
def mayWrite (i : Instr) (s : State) : Target → Prop
  | .status => True
  | .errinfo => True
  | .zctl => ∃ rs1, i = .zgen rs1
  | .zeta _ => ∃ rs1, i = .zgen rs1
  | .sreg r => scalarDest i = some r
  | .coeff k _ => (∃ ed, slotDest i = some ed ∧ k = ed.toNat) ∨ ∃ ed eb, i = .matvec ed eb ∧ ∃ j, j < s.mrows.toNat ∧ k = outputSlot ed j
  | .tags k => (∃ ed, slotDest i = some ed ∧ k = ed.toNat) ∨ ∃ ed eb, i = .matvec ed eb ∧ ∃ j, j < s.mrows.toNat ∧ k = outputSlot ed j
  | .cmd => False
  | .cfgQ => False
  | .cfgN => False
  | .cfgLogN => False
  | .cfgNslot => False
  | .mbase => False
  | .mrows => False
  | .mcols => False
  | .vlen => False
  | .unmapped => False

/-! ## MATVEC -/

/-- The runs of a MATVEC pass checks 1 to 6 of R207, said slot by slot. -/
structure MatvecShapeOk (s : State) (ed eb : SlotNo) : Prop where
  dims : s.mcols = s.vlen
  rows : s.mrows ≠ 0
  cols : s.mcols ≠ 0
  matrix : s.mbase.toNat + s.mrows.toNat * s.mcols.toNat ≤ s.cfg.nslot
  vector : eb.toNat + s.vlen.toNat ≤ s.cfg.nslot
  output : ed.toNat + s.mrows.toNat ≤ s.cfg.nslot
  apartMatrix : ∀ i r j, i < s.mrows.toNat → r < s.mrows.toNat → j < s.mcols.toNat → ed.toNat + i ≠ s.mbase.toNat + r * s.mcols.toNat + j
  apartVector : ∀ i j, i < s.mrows.toNat → j < s.vlen.toNat → ed.toNat + i ≠ eb.toNat + j

/-- An input entry that MATVEC accepts: present, tags (1,0,1) (R207 checks 7 and 8). -/
def State.goodEntry (s : State) (k : Nat) : Prop :=
  (s.slot k).present = true ∧ (s.slot k).tags = { ntt := true, mont := false, neg := true }

end Sys2Proof.Machine
end

