-- ==== Sys2Proof/Certificates/Slice0/Obligations.lean ====
section
/-!
DEFINITION. The statements for the provers. Each docstring names the rule of spec/ it formalises.
-/
open Sys2Proof Sys2Proof.Machine

/-! ## Encoding -/

/-- R90 to R96: decoding the word of a well-formed command gives that command back, with every operand
at every value the encoding admits. -/
def Obligations.DecodeEncodeRoundTrip : Prop :=
  ∀ (nslot : Nat) (i : Instr), i.wellFormed nslot = true → decode nslot (encodeWord i) = .ok i

/-- R90 to R96: a legal word is the word of exactly the command it decodes to, so no two words mean the
same command and no bit of a legal word is ignored; and its slot fields are below NSLOT. -/
def Obligations.DecodedWordReencodes : Prop :=
  ∀ (nslot : Nat) (v : Word) (i : Instr), decode nslot v = .ok i → encodeWord i = v ∧ i.wellFormed nslot = true

/-- R96: a written word is legal exactly when bits [63:32] are 0, it selects a row of R93 by match and
mask, and the slot fields used by ECREATE, NTT, INTT, PWADD, PWSUB, PWMUL are below NSLOT. -/
def Obligations.LegalWordsAreTheTableRows : Prop :=
  ∀ (nslot : Nat) (v : Word),
    (∃ i, decode nslot v = .ok i) ↔
      v.toNat < 2 ^ 32 ∧
      (∃ r ∈ opcodeRows, v.setWidth 32 &&& r.mask = r.pat) ∧
      (v.toNat / 2 ^ 24 ∈ [0x20, 0x21, 0x22, 0x30, 0x31, 0x32] → v.toNat / 2 ^ 16 % 2 ^ 8 < nslot) ∧
      (v.toNat / 2 ^ 24 ∈ [0x30, 0x31, 0x32] → v.toNat / 2 ^ 8 % 2 ^ 8 < nslot ∧ v.toNat % 2 ^ 8 < nslot)

/-- One word for every command, from R100 and programs P2 and P3 of 95_test_vectors.md or put together from
R91 to R93 (PWADD, PWSUB), and one refused word for each step of R96; the names of the refusals are the
decoder's own (log 13). -/
def Obligations.SampleWordsDecode : Prop :=
  decode 32 0x01840000 = .ok (.cred 8 4) ∧
  decode 32 0x02312000 = .ok (.modadd 3 1 2) ∧
  decode 32 0x03BA4000 = .ok (.modsub 11 10 4) ∧
  decode 32 0x04652000 = .ok (.modmul 6 5 2) ∧
  decode 32 0x05512000 = .ok (.moddiv 5 1 2) ∧
  decode 32 0x06921000 = .ok (.modexp 9 2 1) ∧
  decode 32 0x07A40000 = .ok (.modinv 10 4) ∧
  decode 32 0x10210008 = .ok (.bitrev 2 1 8) ∧
  decode 32 0x11100001 = .ok (.zfind 1 true) ∧
  decode 32 0x12010000 = .ok (.zgen 1) ∧
  decode 32 0x20050000 = .ok (.ecreate 5) ∧
  decode 32 0x21050000 = .ok (.ntt 5) ∧
  decode 32 0x22060000 = .ok (.intt 6) ∧
  decode 32 0x30080102 = .ok (.pwadd 8 1 2) ∧
  decode 32 0x31090502 = .ok (.pwsub 9 5 2) ∧
  decode 32 0x32060004 = .ok (.pwmul 6 0 4) ∧
  decode 32 0x40080004 = .ok (.matvec 8 4) ∧
  decode 32 0x02312001 = .error .nonzeroField ∧
  decode 32 0x21280000 = .error .slotOutOfRange ∧
  decode 32 0x00000000 = .error .reservedOpcode ∧
  decode 32 0x0000000102312000 = .error .highBits

/-- R97: every word that is not legal completes with ILLEGAL_CMD and ERRINFO 0 and changes nothing else;
every opcode outside the seventeen makes a word illegal, so the all-zero and the all-ones word are. -/
def Obligations.IllegalWordsOnlySetStatus : Prop :=
  (∀ (s : State) (v : Word) (e : Illegal), decode s.cfg.nslot v = .error e →
    step (s.withCommand v) = .next (s.failsWith .illegalCmd 0)) ∧
  (∀ (nslot : Nat) (v : Word),
    v.toNat / 2 ^ 24 ∉
      [0x01, 0x02, 0x03, 0x04, 0x05, 0x06, 0x07, 0x10, 0x11, 0x12, 0x20, 0x21, 0x22, 0x30, 0x31, 0x32, 0x40] →
    ∃ e, decode nslot v = .error e)

/-- R33, R72: when the host's next operation writes a legal word to CMD, the step is the meaning of the
decoded command on the state from which that operation has been taken; with no operation the unit idles
(R257). The list of operations is the model's own field (log 2). -/
def Obligations.StepRunsDecodedCommand : Prop :=
  (∀ (s : State) (v : Word) (rest : List HostOp) (i : Instr), s.port.pending = .write 0x00 v :: rest →
    decode s.cfg.nslot v = .ok i → step s = exec i { s with port := { s.port with pending := rest } }) ∧
  (∀ s : State, s.port.pending = [] → step s = .next s)

/-! ## The whole machine -/

/-- R240, R289: every host operation and every command, legal or not, completes; there is no stop. -/
def Obligations.EveryStepAnswersNext : Prop :=
  (∀ s : State, ∃ t, step s = .next t) ∧ ∀ (i : Instr) (s : State), ∃ t, exec i s = .next t

/-- R243: a command that completes with a code other than OK changes STATUS and ERRINFO, sets STICKY,
and nothing else in the whole state changes. -/
def Obligations.FailuresChangeOnlyStatus : Prop :=
  (∀ (i : Instr) (s t : State), exec i s = .next t → t.code ≠ .ok → t = s.failsWith t.code t.errinfo) ∧
  (∀ (v : Word) (s t : State), step (s.withCommand v) = .next t → t.code ≠ .ok → t = s.failsWith t.code t.errinfo)

/-- R241: a command that completes OK leaves ERRINFO 0 and STICKY as it was. -/
def Obligations.OkCompletionClearsErrinfo : Prop :=
  ∀ (i : Instr) (s t : State), exec i s = .next t → t.code = .ok → t.errinfo = 0 ∧ t.sticky = s.sticky

/-- R242, "raised by": a legal command reports only the codes the table lists for it. -/
def Obligations.CommandsReportOnlyTheirCodes : Prop :=
  ∀ (i : Instr) (s t : State), i.wellFormed s.cfg.nslot = true → exec i s = .next t → t.code ∈ reportable i

/-- R34: STICKY is set by a command that ends with a code other than OK and is never cleared by a
command; a host write to STATUS clears STICKY when its bit 8 is 1 and does nothing else; no other host
write than one to CMD changes CODE or STICKY. -/
def Obligations.StatusStickyDiscipline : Prop :=
  (∀ (i : Instr) (s t : State), exec i s = .next t → t.sticky = (s.sticky || t.code != .ok)) ∧
  (∀ (s : State) (v : Word) (rest : List HostOp), s.port.pending = .write 0x01 v :: rest →
    step s = .next { s with sticky := s.sticky && !v.getLsbD 8, port := { s.port with pending := rest } }) ∧
  (∀ (s t : State) (a : Addr) (v : Word) (rest : List HostOp), s.port.pending = .write a v :: rest → a ≠ 0x00 →
    step s = .next t → t.code = s.code ∧ (a ≠ 0x01 → t.sticky = s.sticky))

/-- Every step keeps the invariant: a configuration of R5 and R8, the canonical form of the storage
(the model's, log 5), the unlisted bits of ERRINFO 0, and ERRINFO 0 while CODE is OK. -/
def Obligations.StepKeepsInvariant : Prop :=
  ∀ s t : State, s.Inv → step s = .next t → t.Inv

/-- The invariant holds after reset, of every configuration of R5 and R8 and of the model's own choice
of one (log 1). -/
def Obligations.ResetMeetsInvariant : Prop :=
  (∀ c : Config, c.Valid → (State.resetOf c).Inv) ∧ State.reset.Inv ∧ (State.resetOf Config.prod).Inv

/-- R280, R42: the assertion of `rst` gives every piece of state its reset value; the configuration is
not affected. -/
def Obligations.ResetOperationGivesResetValues : Prop :=
  ∀ (s : State) (rest : List HostOp), s.port.pending = .reset :: rest →
    ∃ t, step s = .next t ∧ (∀ r, t.sregWord r = 0) ∧
      t.mem.slots.length = s.cfg.nslot ∧
      (∀ k, (t.slot k).present = false ∧ (t.slot k).tags.ntt = false ∧ (t.slot k).tags.mont = false ∧
        (t.slot k).tags.neg = false ∧ (t.slot k).coeffs.length = s.cfg.n ∧ ∀ j, t.coeff k j = 0) ∧
      t.mem.zeta.length = 2 * s.cfg.n ∧ (∀ i, t.zetaWord i = 0) ∧
      t.zpresent = false ∧ t.code = .ok ∧ t.sticky = false ∧ t.errinfo = 0 ∧
      t.mbase = 0 ∧ t.mrows = 0 ∧ t.mcols = 0 ∧ t.vlen = 0 ∧ t.cfg = s.cfg

/-- R5, R9: the configuration is fixed; no step of any kind changes it. -/
def Obligations.ConfigurationNeverChanges : Prop :=
  ∀ s t : State, step s = .next t → t.cfg = s.cfg

/-- R71, R37: no command writes MBASE, MROWS, MCOLS or VLEN, and no command but ZGEN writes ZPRESENT or
the table. -/
def Obligations.CommandsKeepControlFields : Prop :=
  ∀ (i : Instr) (s t : State), exec i s = .next t →
    SameControl s t ∧ ((∀ rs1, i ≠ .zgen rs1) → t.zpresent = s.zpresent ∧ t.mem.zeta = s.mem.zeta)

/-- R26: no command and no host write makes a present slot absent; only reset does. -/
def Obligations.PresentSlotsStayPresent : Prop :=
  ∀ (s t : State) (k : Nat), step s = .next t → s.port.pending.head? ≠ some .reset →
    (s.slot k).present = true → (t.slot k).present = true

/-- R27: every coefficient a command writes is centred. -/
def Obligations.WrittenCoefficientsAreCentred : Prop :=
  ∀ (i : Instr) (s t : State), s.cfg.Valid → exec i s = .next t →
    ∀ k j, t.coeff k j = s.coeff k j ∨ Centred s.cfg.q (t.coeff k j)

/-! ## Frames -/

/-- R133, R158: CRED, MODADD, MODSUB, MODMUL, MODDIV, MODEXP, MODINV, BITREV and ZFIND change nothing but
S[rd], STATUS and ERRINFO: no other register, no slot, no table word, no control field. -/
def Obligations.ScalarCommandsFrame : Prop :=
  ∀ (i : Instr) (rd : RegNo) (s t : State), scalarDest i = some rd → exec i s = .next t → ScalarFrame rd s t

/-- R133, R136, R158: the outcome of a scalar command depends on nothing but the configuration and the
registers it names as sources; from two states that agree on those it reports the same code and ERRINFO
and, completing OK, writes the same word. -/
def Obligations.ScalarResultsDependOnSources : Prop :=
  ∀ (i : Instr) (rd : RegNo) (s₁ s₂ t₁ t₂ : State), scalarDest i = some rd → s₁.cfg = s₂.cfg →
    (∀ r ∈ scalarSources i, s₁.sregWord r = s₂.sregWord r) → exec i s₁ = .next t₁ → exec i s₂ = .next t₂ →
    t₁.code = t₂.code ∧ t₁.errinfo = t₂.errinfo ∧ (t₁.code = .ok → t₁.sregWord rd = t₂.sregWord rd)

/-- R180, R212, R230: ECREATE, NTT, INTT, PWADD, PWSUB and PWMUL change nothing but slot ed, and MATVEC
nothing but the slots of its output run, besides STATUS and ERRINFO. -/
def Obligations.SlotCommandsFrame : Prop :=
  (∀ (i : Instr) (ed : SlotNo) (s t : State), slotDest i = some ed → exec i s = .next t →
    SlotFrame (fun k => k = ed.toNat) s t) ∧
  (∀ (ed eb : SlotNo) (s t : State), exec (.matvec ed eb) s = .next t →
    SlotFrame (fun k => ∃ i, i < s.mrows.toNat ∧ k = outputSlot ed i) s t)

/-- R71, seen by the host: after any command every word of the host space that the command does not
write reads as before. -/
def Obligations.HostWordsOutsideDestinationKept : Prop :=
  ∀ (i : Instr) (s t : State) (a : Addr), exec i s = .next t → ¬ mayWrite i s (hostTarget s.cfg a) →
    hostRead t a = hostRead s a

/-! ## Modular arithmetic -/

/-- R120: for odd Q, `centeredReduce(x)` is the centred representative of x, the only one, and
`centeredReduce` is idempotent. -/
def Obligations.CentredRepresentativeIsUnique : Prop :=
  ∀ (q : Nat) (x : Int), q % 2 = 1 →
    IsCentredOf q x (centeredReduce q x) ∧ (∀ v, IsCentredOf q x v → v = centeredReduce q x) ∧
    centeredReduce q (centeredReduce q x) = centeredReduce q x

/-- R121: the truncated-remainder form equals `centeredReduce` for every x. -/
def Obligations.TruncatedCentringAgrees : Prop :=
  ∀ (q : Nat) (x : Int), q % 2 = 1 → centeredReduceTrunc q x = centeredReduce q x

/-- R126: addMod, subtractMod and multiplyMod may reduce their operands first; the product of two
centred operands is then below 2^60 in magnitude when Q < 2^31. -/
def Obligations.ReducedOperandsAgree : Prop :=
  ∀ (q : Nat) (a b : Int), q % 2 = 1 →
    multiplyMod q a b = centeredReduce q (centeredReduce q a * centeredReduce q b) ∧
    addMod q a b = centeredReduce q (centeredReduce q a + centeredReduce q b) ∧
    subtractMod q a b = centeredReduce q (centeredReduce q a - centeredReduce q b) ∧
    (q < 2 ^ 31 → |centeredReduce q a * centeredReduce q b| ≤ halfOf q ^ 2 ∧ halfOf q ^ 2 < 2 ^ 60)

/-- R122 to R125: CRED, MODADD, MODSUB and MODMUL complete OK on every operand and write the centred
representative of S[rs1], of the exact sum, of the exact difference and of the exact product; the word
read back is that value; the whole next state is given. -/
def Obligations.CentredArithmeticResults : Prop :=
  ∀ (s : State) (rd rs1 rs2 : RegNo), s.cfg.Valid →
    ∀ p ∈ [(Instr.cred rd rs1, s.sreg rs1), (Instr.modadd rd rs1 rs2, s.sreg rs1 + s.sreg rs2),
           (Instr.modsub rd rs1 rs2, s.sreg rs1 - s.sreg rs2), (Instr.modmul rd rs1 rs2, s.sreg rs1 * s.sreg rs2)],
      ∃ v, IsCentredOf s.cfg.q p.2 v ∧ exec p.1 s = .next (s.setSreg rd v).endsOk ∧ (s.setSreg rd v).sreg rd = v

/-- R127, R128: MODEXP always completes OK and writes 1 for an exponent ≤ 0 and the raw residue
base^e mod Q for a positive one, for every base. -/
def Obligations.ModexpResult : Prop :=
  ∀ (s : State) (rd rs1 rs2 : RegNo), s.cfg.Valid →
    ∃ v : Int, (s.sreg rs2 ≤ 0 → v = 1) ∧ (0 < s.sreg rs2 → v = s.sreg rs1 ^ (s.sreg rs2).toNat % (s.cfg.q : Int)) ∧
      exec (.modexp rd rs1 rs2) s = .next (s.setSreg rd v).endsOk ∧ (s.setSreg rd v).sreg rd = v

/-- R129, R130: MODINV of a nonzero residue writes its centred inverse, never 0; of a zero residue it
completes with NO_INVERSE naming rs1 and leaves S[rd]. -/
def Obligations.ModinvResult : Prop :=
  ∀ (s : State) (rd rs1 : RegNo), s.cfg.Valid →
    (s.sreg rs1 % (s.cfg.q : Int) ≠ 0 →
      ∃ v, Centred s.cfg.q v ∧ v * s.sreg rs1 ≡ 1 [ZMOD s.cfg.q] ∧ v ≠ 0 ∧
        exec (.modinv rd rs1) s = .next (s.setSreg rd v).endsOk ∧ (s.setSreg rd v).sreg rd = v) ∧
    (s.sreg rs1 % (s.cfg.q : Int) = 0 →
      exec (.modinv rd rs1) s = .next (s.failsWith .noInverse (errWord 7 rs1.toNat 0 0 0 0)))

/-- R131, R132: MODDIV by a nonzero residue writes the centred c with c · S[rs2] ≡ S[rs1]; by a zero
residue it completes with NO_INVERSE naming rs2, whatever the dividend, and leaves S[rd]. -/
def Obligations.ModdivResult : Prop :=
  ∀ (s : State) (rd rs1 rs2 : RegNo), s.cfg.Valid →
    (s.sreg rs2 % (s.cfg.q : Int) ≠ 0 →
      ∃ v, Centred s.cfg.q v ∧ v * s.sreg rs2 ≡ s.sreg rs1 [ZMOD s.cfg.q] ∧
        exec (.moddiv rd rs1 rs2) s = .next (s.setSreg rd v).endsOk ∧ (s.setSreg rd v).sreg rd = v) ∧
    (s.sreg rs2 % (s.cfg.q : Int) = 0 →
      exec (.moddiv rd rs1 rs2) s = .next (s.failsWith .noInverse (errWord 7 rs2.toNat 0 0 0 0)))

/-! ## Bit reversal, root search, table -/

/-- R150, R151: BITREV always completes OK; bit i of the pattern of S[rs1] becomes bit k − 1 − i of the
result and bits k and above are discarded. -/
def Obligations.BitrevResult : Prop :=
  ∀ (s : State) (rd rs1 : RegNo) (k : BitVec 6),
    ∃ v : Nat, (∀ i, v.testBit i = (decide (i < k.toNat) && (s.sregWord rs1).getLsbD (k.toNat - 1 - i))) ∧
      exec (.bitrev rd rs1 k) s = .next (s.setSreg rd v).endsOk ∧ (s.setSreg rd v).sreg rd = v

/-- R150: bit i of t becomes bit k − 1 − i of `bitReverse(t, k)`, bits k and above of t are discarded, the
result lies in 0 … 2^k − 1, and for t < 2^k, `bitReverse(bitReverse(t, k), k) = t`. -/
def Obligations.BitReverseIsInvolutive : Prop :=
  ∀ t k : Nat,
    (∀ i, (bitReverse t k).testBit i = (decide (i < k) && t.testBit (k - 1 - i))) ∧
    bitReverse t k < 2 ^ k ∧ bitReverse t k = bitReverse (t % 2 ^ k) k ∧
    (t < 2 ^ k → bitReverse (bitReverse t k) k = t)

/-- R152, R153, R157: in every configuration of R5, ZFIND completes OK and writes the least z in 0 … Q − 1
with z^(2^k) ≡ −1, k = LOGN or LOGN − 1; it is at least 2 and its multiplicative order is 2^(k+1). -/
def Obligations.ZfindFindsTheLeastRoot : Prop :=
  ∀ (s : State) (rd : RegNo) (neg : Bool), s.cfg.Valid →
    let e := 2 ^ (if neg then s.cfg.logN else s.cfg.logN - 1)
    ∃ z : Nat, 2 ≤ z ∧ z < s.cfg.q ∧ z ^ e % s.cfg.q = s.cfg.q - 1 ∧ (∀ y < z, y ^ e % s.cfg.q ≠ s.cfg.q - 1) ∧
      orderOf (z : ZMod s.cfg.q) = 2 * e ∧
      exec (.zfind rd neg) s = .next (s.setSreg rd z).endsOk ∧ (s.setSreg rd z).sreg rd = z

/-- R154, R155, R158: ZGEN completes OK whether or not a table was present; Z[0] = 1, Z[i] = zeta^bitReverse(i,
LOGN) mod Q, raw, for all 2N words; ZPRESENT is set; no register, slot or control field changes. -/
def Obligations.ZgenBuildsTheTable : Prop :=
  ∀ (s : State) (rs1 : RegNo), s.cfg.Valid →
    ∃ t, exec (.zgen rs1) s = .next t ∧ t.mem.zeta.length = 2 * s.cfg.n ∧ s64 (t.zetaWord 0) = 1 ∧
      (∀ i < 2 * s.cfg.n, s64 (t.zetaWord i) = s.sreg rs1 ^ bitReverse i s.cfg.logN % (s.cfg.q : Int)) ∧
      t.zpresent = true ∧ t.sregs = s.sregs ∧ t.mem.slots = s.mem.slots ∧ SameControl s t ∧ CompletedOk s t

/-- R156: after ZGEN the upper half of the table repeats the lower half, Z[N] = 1 and Z[N + i] = Z[i],
because `bitReverse` discards bit LOGN; the exponents of the lower half are a permutation of 0 … N − 1. -/
def Obligations.ZgenUpperHalfRepeats : Prop :=
  (∀ (s t : State) (rs1 : RegNo), exec (.zgen rs1) s = .next t →
    s64 (t.zetaWord s.cfg.n) = 1 ∧ ∀ i < s.cfg.n, t.zetaWord (s.cfg.n + i) = t.zetaWord i) ∧
  (∀ (c : Config) (i : Nat), i < c.n → bitReverse (c.n + i) c.logN = bitReverse i c.logN) ∧
  (∀ c : Config, Set.BijOn (fun i => bitReverse i c.logN) (Set.Iio c.n) (Set.Iio c.n))

/-! ## Elements and transforms -/

/-- R230: ECREATE of an existing slot completes OK and gives it N zero coefficients, tags (0,0,1) and
PRESENT, whatever it held. -/
def Obligations.EcreateResult : Prop :=
  ∀ (s : State) (ed : SlotNo), s.Inv → ed.toNat < s.cfg.nslot →
    ∃ t, exec (.ecreate ed) s = .next t ∧
      t.slot ed.toNat =
        { present := true, tags := { ntt := false, mont := false, neg := true }, coeffs := List.replicate s.cfg.n 0 } ∧
      SlotFrame (fun k => k = ed.toNat) s t ∧ CompletedOk s t

/-- R175: NTT of an existing slot. The four guards in order, each with its code and ERRINFO and no other
change; past them, the coefficients become `forwardTransform(c, Z)`, all centred, ntt is set, mont and
neg stay, and the command completes OK. -/
def Obligations.NttGuardsAndResult : Prop :=
  ∀ (s : State) (ed : SlotNo), s.Inv → ed.toNat < s.cfg.nslot →
    let e := s.slot ed.toNat
    (e.present = false → exec (.ntt ed) s = .next (s.failsWith .elementAbsent (errWord 1 ed.toNat 0 0 0 0))) ∧
    (e.present = true → s.zpresent = false →
      exec (.ntt ed) s = .next (s.failsWith .tableAbsent (errWord 6 0 0 0 0 0))) ∧
    (e.present = true → s.zpresent = true → e.tags.ntt = true →
      exec (.ntt ed) s = .next (s.failsWith .wrongDomain
        (errWord 1 ed.toNat 0 0 (e.tags.number - 1) e.tags.number))) ∧
    (e.present = true → s.zpresent = true → e.tags.ntt = false → e.tags.neg = false →
      exec (.ntt ed) s = .next (s.failsWith .notNegacyclic
        (errWord 1 ed.toNat 0 0 (e.tags.number + 4) e.tags.number))) ∧
    (e.present = true → s.zpresent = true → e.tags.ntt = false → e.tags.neg = true →
      ∃ t, exec (.ntt ed) s = .next t ∧
        (t.slot ed.toNat).values = forwardTransform s.cfg.q s.cfg.logN s.zetas e.values ∧
        (∀ v ∈ (t.slot ed.toNat).values, Centred s.cfg.q v) ∧
        (t.slot ed.toNat).present = true ∧ (t.slot ed.toNat).tags = { ntt := true, mont := e.tags.mont, neg := true } ∧
        SlotFrame (fun k => k = ed.toNat) s t ∧ CompletedOk s t)

/-- R177: INTT of an existing slot. The three guards in order; past them, whatever neg is, the
coefficients become `inverseTransform(c, Z)`, all centred, ntt is cleared, mont and neg stay, and the
command completes OK. -/
def Obligations.InttGuardsAndResult : Prop :=
  ∀ (s : State) (ed : SlotNo), s.Inv → ed.toNat < s.cfg.nslot →
    let e := s.slot ed.toNat
    (e.present = false → exec (.intt ed) s = .next (s.failsWith .elementAbsent (errWord 1 ed.toNat 0 0 0 0))) ∧
    (e.present = true → s.zpresent = false →
      exec (.intt ed) s = .next (s.failsWith .tableAbsent (errWord 6 0 0 0 0 0))) ∧
    (e.present = true → s.zpresent = true → e.tags.ntt = false →
      exec (.intt ed) s = .next (s.failsWith .wrongDomain
        (errWord 1 ed.toNat 0 0 (e.tags.number + 1) e.tags.number))) ∧
    (e.present = true → s.zpresent = true → e.tags.ntt = true →
      ∃ t, exec (.intt ed) s = .next t ∧
        (t.slot ed.toNat).values = inverseTransform s.cfg.q s.cfg.logN s.zetas e.values ∧
        (∀ v ∈ (t.slot ed.toNat).values, Centred s.cfg.q v) ∧
        (t.slot ed.toNat).present = true ∧
        (t.slot ed.toNat).tags = { ntt := false, mont := e.tags.mont, neg := e.tags.neg } ∧
        SlotFrame (fun k => k = ed.toNat) s t ∧ CompletedOk s t)

/-- R171, closed form: pass p has 2^p blocks of half length N / 2^(p+1); block b starts at 2·len·b and
draws k = 2^p + b. -/
def Obligations.ForwardOrderClosedForm : Prop :=
  ∀ logN : Nat,
    forwardBlocks logN =
      (List.range logN).flatMap fun p => (List.range (2 ^ p)).map fun b =>
        { len := 2 ^ logN / 2 ^ (p + 1), start := 2 * (2 ^ logN / 2 ^ (p + 1)) * b, k := 2 ^ p + b }

/-- R172, closed form: the pass with half length len has N / (2·len) blocks; block b starts at 2·len·b
and draws k = N / len − 1 − b. -/
def Obligations.InverseOrderClosedForm : Prop :=
  ∀ logN : Nat,
    inverseBlocks logN =
      (List.range logN).flatMap fun p => (List.range (2 ^ logN / (2 * 2 ^ p))).map fun b =>
        { len := 2 ^ p, start := 2 * 2 ^ p * b, k := 2 ^ logN / 2 ^ p - 1 - b }

/-- R178: both transforms draw exactly the indices 1 … N − 1, each once, the inverse in the reverse
order; so two tables that agree there give the same transforms, and it is enough that they agree modulo Q. -/
def Obligations.TransformsReadLowerTableOnce : Prop :=
  ∀ logN : Nat,
    (forwardBlocks logN).map Block.k = List.range' 1 (2 ^ logN - 1) ∧
    (inverseBlocks logN).map Block.k = (List.range' 1 (2 ^ logN - 1)).reverse ∧
    ∀ (q : Nat) (z z' c : List Int), (∀ i, 1 ≤ i → i < 2 ^ logN → z.getD i 0 ≡ z'.getD i 0 [ZMOD q]) →
      forwardTransform q logN z c = forwardTransform q logN z' c ∧
      inverseTransform q logN z c = inverseTransform q logN z' c

/-- R174: with a table of a root zeta^N ≡ −1, NTT evaluates the polynomial at odd powers of zeta in
bit-reversed order. -/
def Obligations.NttEvaluatesAtOddPowers : Prop :=
  ∀ (s : State) (ed : SlotNo) (zeta : Int), s.Inv → ed.toNat < s.cfg.nslot → zeta ^ s.cfg.n ≡ -1 [ZMOD s.cfg.q] →
    IsPowerTable s.cfg zeta s.zetas → s.zpresent = true → (s.slot ed.toNat).present = true →
    (s.slot ed.toNat).tags.ntt = false → (s.slot ed.toNat).tags.neg = true →
    ∃ t, exec (.ntt ed) s = .next t ∧ ∀ i < s.cfg.n,
      IsCentredOf s.cfg.q
        (∑ j ∈ Finset.range s.cfg.n, s.coeff ed.toNat j * zeta ^ ((2 * bitReverse i s.cfg.logN + 1) * j))
        (t.coeff ed.toNat i)

/-- R179: with a table of a root zeta^N ≡ −1, NTT then INTT restores the tags and leaves the centred
representative of every coefficient, so it reproduces the coefficients exactly when they were centred. -/
def Obligations.NttRoundTrip : Prop :=
  ∀ (s : State) (ed : SlotNo) (zeta : Int), s.Inv → ed.toNat < s.cfg.nslot → zeta ^ s.cfg.n ≡ -1 [ZMOD s.cfg.q] →
    IsPowerTable s.cfg zeta s.zetas → s.zpresent = true → (s.slot ed.toNat).present = true →
    (s.slot ed.toNat).tags.ntt = false → (s.slot ed.toNat).tags.neg = true →
    ∃ t u, exec (.ntt ed) s = .next t ∧ exec (.intt ed) t = .next u ∧
      (u.slot ed.toNat).tags = (s.slot ed.toNat).tags ∧
      (∀ j < s.cfg.n, IsCentredOf s.cfg.q (s.coeff ed.toNat j) (u.coeff ed.toNat j)) ∧
      ((∀ j < s.cfg.n, Centred s.cfg.q (s.coeff ed.toNat j)) → u.slot ed.toNat = s.slot ed.toNat)

/-- R211: with such a table, NTT of two slots with tags (0,0,1), PWMUL and INTT give the negacyclic
product modulo X^N + 1 and Q, centred, with tags (0,0,1). -/
def Obligations.NttConvolution : Prop :=
  ∀ (s : State) (a b d : SlotNo) (zeta : Int), s.Inv → a.toNat < s.cfg.nslot → b.toNat < s.cfg.nslot →
    d.toNat < s.cfg.nslot → a ≠ b → zeta ^ s.cfg.n ≡ -1 [ZMOD s.cfg.q] → IsPowerTable s.cfg zeta s.zetas →
    s.zpresent = true → (s.slot a.toNat).present = true → (s.slot b.toNat).present = true →
    (s.slot a.toNat).tags = { ntt := false, mont := false, neg := true } →
    (s.slot b.toNat).tags = { ntt := false, mont := false, neg := true } →
    ∃ s₁ s₂ s₃ s₄, exec (.ntt a) s = .next s₁ ∧ exec (.ntt b) s₁ = .next s₂ ∧ exec (.pwmul d a b) s₂ = .next s₃ ∧
      exec (.intt d) s₃ = .next s₄ ∧ (s₄.slot d.toNat).present = true ∧
      (s₄.slot d.toNat).tags = { ntt := false, mont := false, neg := true } ∧
      ∀ m < s.cfg.n,
        IsCentredOf s.cfg.q
          (∑ i ∈ Finset.range s.cfg.n, ∑ j ∈ Finset.range s.cfg.n,
            if i + j = m then s.coeff a.toNat i * s.coeff b.toNat j
            else if i + j = m + s.cfg.n then -(s.coeff a.toNat i * s.coeff b.toNat j) else 0)
          (s₄.coeff d.toNat m)

/-! ## Pointwise commands -/

/-- R200: the five checks of PWADD, PWSUB and PWMUL on existing slots, in order, each with its code and
ERRINFO and no other change; past them the command completes OK, whatever neg is. -/
def Obligations.PointwiseGuards : Prop :=
  ∀ (s : State) (ed ea eb : SlotNo), ed.toNat < s.cfg.nslot → ea.toNat < s.cfg.nslot → eb.toNat < s.cfg.nslot →
    ∀ i ∈ [Instr.pwadd ed ea eb, Instr.pwsub ed ea eb, Instr.pwmul ed ea eb],
      let a := s.slot ea.toNat
      let b := s.slot eb.toNat
      (a.present = false → exec i s = .next (s.failsWith .elementAbsent (errWord 1 ea.toNat 0 0 0 0))) ∧
      (a.present = true → b.present = false →
        exec i s = .next (s.failsWith .elementAbsent (errWord 2 eb.toNat 0 0 0 0))) ∧
      (a.present = true → b.present = true → a.tags.ntt = false →
        exec i s = .next (s.failsWith .notNttForm (errWord 1 ea.toNat 0 0 (a.tags.number + 1) a.tags.number))) ∧
      (a.present = true → b.present = true → a.tags.ntt = true → b.tags.ntt = false →
        exec i s = .next (s.failsWith .notNttForm (errWord 2 eb.toNat 0 0 (b.tags.number + 1) b.tags.number))) ∧
      (a.present = true → b.present = true → a.tags.ntt = true → b.tags.ntt = true → a.tags.mont ≠ b.tags.mont →
        exec i s = .next (s.failsWith .montgomeryMismatch
          (errWord 2 eb.toNat 0 0
            (Tags.number { ntt := true, mont := a.tags.mont, neg := b.tags.neg }) b.tags.number))) ∧
      (a.present = true → b.present = true → a.tags.ntt = true → b.tags.ntt = true → a.tags.mont = b.tags.mont →
        ∃ t, exec i s = .next t ∧ CompletedOk s t)

/-- R201 to R205: past the checks, PWADD, PWSUB and PWMUL complete OK; coefficient x of slot ed becomes
the centred sum, difference (ea minus eb) or product of the operands' coefficients before the command,
whatever slots coincide; ntt is set, mont is the operands', neg is the AND, PRESENT is set. -/
def Obligations.PointwiseResults : Prop :=
  ∀ (s : State) (ed ea eb : SlotNo), s.Inv → ed.toNat < s.cfg.nslot →
    ea.toNat < s.cfg.nslot → eb.toNat < s.cfg.nslot →
    (s.slot ea.toNat).present = true → (s.slot eb.toNat).present = true → (s.slot ea.toNat).tags.ntt = true →
    (s.slot eb.toNat).tags.ntt = true → (s.slot ea.toNat).tags.mont = (s.slot eb.toNat).tags.mont →
    ∀ p ∈ [(Instr.pwadd ed ea eb, fun x y : Int => x + y), (Instr.pwsub ed ea eb, fun x y : Int => x - y),
           (Instr.pwmul ed ea eb, fun x y : Int => x * y)],
      ∃ t, exec p.1 s = .next t ∧
        (∀ x < s.cfg.n, IsCentredOf s.cfg.q (p.2 (s.coeff ea.toNat x) (s.coeff eb.toNat x)) (t.coeff ed.toNat x)) ∧
        (t.slot ed.toNat).coeffs.length = s.cfg.n ∧ (t.slot ed.toNat).present = true ∧
        (t.slot ed.toNat).tags =
          { ntt := true, mont := (s.slot ea.toNat).tags.mont,
            neg := (s.slot ea.toNat).tags.neg && (s.slot eb.toNat).tags.neg } ∧
        SlotFrame (fun k => k = ed.toNat) s t ∧ CompletedOk s t

/-! ## Matrix-vector multiply -/

/-- R207 checks 1 to 6, in order, each with its code and ERRINFO and no other change. -/
def Obligations.MatvecShapeGuards : Prop :=
  ∀ (s : State) (ed eb : SlotNo),
    let rows := s.mrows.toNat
    let cols := s.mcols.toNat
    let vlen := s.vlen.toNat
    let base := s.mbase.toNat
    let shared := ∃ i < rows,
      (∃ r < rows, ∃ j < cols, ed.toNat + i = base + r * cols + j) ∨ ∃ j < vlen, ed.toNat + i = eb.toNat + j
    (cols ≠ vlen → exec (.matvec ed eb) s = .next (s.failsWith .dimMismatch (errWord 4 0 0 0 0 0))) ∧
    (cols = vlen → rows = 0 ∨ cols = 0 →
      exec (.matvec ed eb) s = .next (s.failsWith .badShape (errWord 3 0 0 0 0 0))) ∧
    (cols = vlen → rows ≠ 0 → cols ≠ 0 → s.cfg.nslot < base + rows * cols →
      exec (.matvec ed eb) s = .next (s.failsWith .badShape (errWord 3 0 0 0 0 0))) ∧
    (cols = vlen → rows ≠ 0 → cols ≠ 0 → base + rows * cols ≤ s.cfg.nslot → s.cfg.nslot < eb.toNat + vlen →
      exec (.matvec ed eb) s = .next (s.failsWith .badShape (errWord 4 0 0 0 0 0))) ∧
    (cols = vlen → rows ≠ 0 → cols ≠ 0 → base + rows * cols ≤ s.cfg.nslot → eb.toNat + vlen ≤ s.cfg.nslot →
      s.cfg.nslot < ed.toNat + rows →
      exec (.matvec ed eb) s = .next (s.failsWith .badShape (errWord 5 0 0 0 0 0))) ∧
    (cols = vlen → rows ≠ 0 → cols ≠ 0 → base + rows * cols ≤ s.cfg.nslot → eb.toNat + vlen ≤ s.cfg.nslot →
      ed.toNat + rows ≤ s.cfg.nslot → shared →
      exec (.matvec ed eb) s = .next (s.failsWith .badShape (errWord 5 0 0 0 0 0)))

/-- R207 checks 7 and 8: with a good shape, the first bad entry ends the command, matrix entries
row-major and then vector entries; absent before tags; ERRINFO names operand, slot, row and column, and
for bad tags expected 5 and the actual triple. -/
def Obligations.MatvecEntryGuards : Prop :=
  ∀ (s : State) (ed eb : SlotNo), s.cfg.Valid → MatvecShapeOk s ed eb →
    (∀ i j, i < s.mrows.toNat → j < s.mcols.toNat →
      (∀ i' j', i' < s.mrows.toNat → j' < s.mcols.toNat → i' < i ∨ (i' = i ∧ j' < j) → s.goodEntry (s.matrixSlot i' j')) →
      let k := s.matrixSlot i j
      ((s.slot k).present = false →
        exec (.matvec ed eb) s = .next (s.failsWith .elementAbsent (errWord 3 k i j 0 0))) ∧
      ((s.slot k).present = true → ¬ s.goodEntry k →
        exec (.matvec ed eb) s = .next (s.failsWith .badOperandTags (errWord 3 k i j 5 (s.slot k).tags.number)))) ∧
    ((∀ i j, i < s.mrows.toNat → j < s.mcols.toNat → s.goodEntry (s.matrixSlot i j)) →
      ∀ j, j < s.vlen.toNat → (∀ j' < j, s.goodEntry (vectorSlot eb j')) →
      let k := vectorSlot eb j
      ((s.slot k).present = false →
        exec (.matvec ed eb) s = .next (s.failsWith .elementAbsent (errWord 4 k 0 j 0 0))) ∧
      ((s.slot k).present = true → ¬ s.goodEntry k →
        exec (.matvec ed eb) s = .next (s.failsWith .badOperandTags (errWord 4 k 0 j 5 (s.slot k).tags.number))))

/-- R206, R208, R209: with a good shape and good entries MATVEC completes OK; coefficient x of output slot
ed + i is the centred sum over j of M(i, j).c[x] · v(j).c[x]; every output slot is present with tags
(1,0,1); nothing else but STATUS and ERRINFO changes. -/
def Obligations.MatvecResult : Prop :=
  ∀ (s : State) (ed eb : SlotNo), s.Inv → MatvecShapeOk s ed eb →
    (∀ i j, i < s.mrows.toNat → j < s.mcols.toNat → s.goodEntry (s.mbase.toNat + i * s.mcols.toNat + j)) →
    (∀ j < s.vlen.toNat, s.goodEntry (eb.toNat + j)) →
    ∃ t, exec (.matvec ed eb) s = .next t ∧
      (∀ i < s.mrows.toNat,
        (t.slot (ed.toNat + i)).present = true ∧
        (t.slot (ed.toNat + i)).tags = { ntt := true, mont := false, neg := true } ∧
        (t.slot (ed.toNat + i)).coeffs.length = s.cfg.n ∧
        ∀ x < s.cfg.n,
          IsCentredOf s.cfg.q
            (∑ j ∈ Finset.range s.mcols.toNat,
              s.coeff (s.mbase.toNat + i * s.mcols.toNat + j) x * s.coeff (eb.toNat + j) x)
            (t.coeff (ed.toNat + i) x)) ∧
      SlotFrame (fun k => ∃ i, i < s.mrows.toNat ∧ k = ed.toNat + i) s t ∧ CompletedOk s t

/-! ## The host port and ERRINFO -/

/-- R62: a host read answers one word and changes no state of the unit; the answer goes to the model's
own list (log 3). -/
def Obligations.HostReadChangesNothing : Prop :=
  ∀ (s : State) (a : Addr) (rest : List HostOp), s.port.pending = .read a :: rest →
    step s = .next { s with port := { pending := rest, answers := s.port.answers ++ [hostRead s a] } }

/-- R32, R61, R65, R66: what a host read returns at every mapped address; STATUS reads the number R242
gives the code, in its low 8 bits, and STICKY in bit 8. -/
def Obligations.HostSpaceContents : Prop :=
  ∀ s : State, s.cfg.Valid →
    hostRead s 0x00 = 0 ∧
    (∀ p ∈ [(StatusCode.ok, 0), (StatusCode.illegalCmd, 1), (StatusCode.noInverse, 2), (StatusCode.rootNotFound, 3),
            (StatusCode.elementAbsent, 4), (StatusCode.tableAbsent, 5), (StatusCode.wrongDomain, 6),
            (StatusCode.notNegacyclic, 7), (StatusCode.notNttForm, 8), (StatusCode.montgomeryMismatch, 9),
            (StatusCode.dimMismatch, 10), (StatusCode.badOperandTags, 11), (StatusCode.badShape, 12)],
      s.code = p.1 → (hostRead s 0x01).toNat = p.2 + 256 * s.sticky.toNat) ∧
    hostRead s 0x02 = s.errinfo ∧
    (hostRead s 0x03).toNat = s.cfg.q ∧ (hostRead s 0x04).toNat = s.cfg.n ∧
    (hostRead s 0x05).toNat = s.cfg.logN ∧ (hostRead s 0x06).toNat = s.cfg.nslot ∧
    (hostRead s 0x07).toNat = s.zpresent.toNat ∧
    (hostRead s 0x08).toNat = s.mbase.toNat ∧ (hostRead s 0x09).toNat = s.mrows.toNat ∧
    (hostRead s 0x0A).toNat = s.mcols.toNat ∧ (hostRead s 0x0B).toNat = s.vlen.toNat ∧
    (∀ r : RegNo, hostRead s (BitVec.ofNat 32 (0x100 + r.toNat)) = s.sregWord r) ∧
    (∀ i < 2 * s.cfg.n, hostRead s (BitVec.ofNat 32 (0x1_0000 + i)) = s.zetaWord i) ∧
    (∀ k < s.cfg.nslot,
      (∀ j < s.cfg.n, hostRead s (BitVec.ofNat 32 (0x100_0000 + k * 0x1_0000 + j)) =
        if (s.slot k).present then (s.slot k).coeffs.getD j 0 else 0) ∧
      (hostRead s (BitVec.ofNat 32 (0x100_0000 + k * 0x1_0000 + 0x8000))).toNat =
        if (s.slot k).present then
          (s.slot k).tags.ntt.toNat + 2 * (s.slot k).tags.mont.toNat + 4 * (s.slot k).tags.neg.toNat + 8
        else 0)

/-- R63, R65, R66, R29, R36, R37: the whole effect of a host write at every mapped address but CMD. -/
def Obligations.HostWriteEffects : Prop :=
  ∀ (s : State) (a : Addr) (v : Word) (rest : List HostOp), s.cfg.Valid → s.port.pending = .write a v :: rest →
    let p : Port := { s.port with pending := rest }
    (a = 0x01 → step s = .next { s with sticky := s.sticky && !v.getLsbD 8, port := p }) ∧
    (0x02 ≤ a.toNat → a.toNat ≤ 0x06 → step s = .next { s with port := p }) ∧
    (a = 0x07 → step s = .next { s with zpresent := v.getLsbD 0, port := p }) ∧
    (a = 0x08 → step s = .next { s with mbase := v.setWidth 16, port := p }) ∧
    (a = 0x09 → step s = .next { s with mrows := v.setWidth 16, port := p }) ∧
    (a = 0x0A → step s = .next { s with mcols := v.setWidth 16, port := p }) ∧
    (a = 0x0B → step s = .next { s with vlen := v.setWidth 16, port := p }) ∧
    (∀ r : RegNo, a.toNat = 0x100 + r.toNat →
      step s = .next { s with sregs := s.sregs.set r.toNat v r.isLt, port := p }) ∧
    (∀ i < 2 * s.cfg.n, a.toNat = 0x1_0000 + i →
      (s.zpresent = true → step s = .next { s with port := p }) ∧
      (s.zpresent = false →
        step s = .next { s with mem := { s.mem with zeta := s.mem.zeta.set i v }, port := p })) ∧
    (∀ k < s.cfg.nslot,
      (∀ j < s.cfg.n, a.toNat = 0x100_0000 + k * 0x1_0000 + j →
        ((s.slot k).present = false → step s = .next { s with port := p }) ∧
        ((s.slot k).present = true → step s = .next
          { s with
            mem := { s.mem with slots := s.mem.slots.set k { s.slot k with coeffs := (s.slot k).coeffs.set j v } }
            port := p })) ∧
      (a.toNat = 0x100_0000 + k * 0x1_0000 + 0x8000 →
        ((s.slot k).present = false → step s = .next { s with port := p }) ∧
        ((s.slot k).present = true → step s = .next
          { s with
            mem := { s.mem with slots := s.mem.slots.set k { s.slot k with tags :=
              { ntt := v.getLsbD 0, mont := v.getLsbD 1, neg := v.getLsbD 2 } } }
            port := p })))

/-- R72: a read after a host write returns the written value, at every register, at every table word
while ZPRESENT = 0, and at every coefficient of a present slot. -/
def Obligations.HostReadAfterWrite : Prop :=
  ∀ (s t : State) (a : Addr) (v : Word) (rest : List HostOp), s.Inv → s.port.pending = .write a v :: rest →
    step s = .next t →
    (∃ r : RegNo, a.toNat = 0x100 + r.toNat) ∨
      (s.zpresent = false ∧ ∃ i < 2 * s.cfg.n, a.toNat = 0x1_0000 + i) ∨
      (∃ k < s.cfg.nslot, ∃ j < s.cfg.n, (s.slot k).present = true ∧ a.toNat = 0x100_0000 + k * 0x1_0000 + j) →
    hostRead t a = v ∧ ∀ a', a' ≠ a → hostRead t a' = hostRead s a'

/-- R64: an access to an unmapped address is not an error: a read answers 0, a write is dropped and no
status changes. -/
def Obligations.UnmappedAddressesAreInert : Prop :=
  ∀ (s : State) (a : Addr), s.cfg.Valid →
    (0x0C ≤ a.toNat ∧ a.toNat < 0x100) ∨ (0x110 ≤ a.toNat ∧ a.toNat < 0x1_0000) ∨
      (0x1_0000 + 2 * s.cfg.n ≤ a.toNat ∧ a.toNat < 0x100_0000) ∨
      (0x100_0000 ≤ a.toNat ∧
        (s.cfg.nslot ≤ (a.toNat - 0x100_0000) / 0x1_0000 ∨
          (s.cfg.n ≤ a.toNat % 0x1_0000 ∧ a.toNat % 0x1_0000 ≠ 0x8000))) →
    hostRead s a = 0 ∧
    ∀ (v : Word) (rest : List HostOp), s.port.pending = .write a v :: rest →
      step s = .next { s with port := { s.port with pending := rest } }

/-- R245: the place of every field of ERRINFO, the numbers of OPERAND, and the bits that are 0. -/
def Obligations.ErrinfoLayout : Prop :=
  ∀ f : ErrFields,
    f.toWord.extractLsb' 0 16 = f.slot ∧ f.toWord.extractLsb' 16 16 = f.col ∧ f.toWord.extractLsb' 32 16 = f.row ∧
    f.toWord.extractLsb' 48 3 = f.expected ∧ f.toWord.extractLsb' 52 3 = f.actual ∧
    (∀ p ∈ [(ErrOperand.none, 0), (ErrOperand.a, 1), (ErrOperand.b, 2), (ErrOperand.matrix, 3), (ErrOperand.vector, 4),
            (ErrOperand.output, 5), (ErrOperand.table, 6), (ErrOperand.scalar, 7)],
      f.operand = p.1 → (f.toWord.extractLsb' 56 4).toNat = p.2) ∧
    f.toWord.extractLsb' 56 4 = f.operand.toBits ∧ f.toWord &&& errInfoReserved = 0 ∧
    f.toWord.toNat =
      f.slot.toNat + f.col.toNat * 2 ^ 16 + f.row.toNat * 2 ^ 32 + f.expected.toNat * 2 ^ 48 +
        f.actual.toNat * 2 ^ 52 + f.operand.toBits.toNat * 2 ^ 56

/-- R91 to R93, R95: the word of every command as a number: its opcode at bit 24; in format S rd at bit 20,
rs1 at 16, rs2 at 12 and the immediate at 0; in format E ed at 16, ea at 8 and eb at 0; every other bit 0. -/
def Obligations.EncodedWordsByField : Prop :=
  (∀ rd rs1 : RegNo,
    (encodeWord (.cred rd rs1)).toNat = 0x01 * 2 ^ 24 + rd.toNat * 2 ^ 20 + rs1.toNat * 2 ^ 16 ∧
    (encodeWord (.modinv rd rs1)).toNat = 0x07 * 2 ^ 24 + rd.toNat * 2 ^ 20 + rs1.toNat * 2 ^ 16) ∧
  (∀ rd rs1 rs2 : RegNo,
    let operands := rd.toNat * 2 ^ 20 + rs1.toNat * 2 ^ 16 + rs2.toNat * 2 ^ 12
    (encodeWord (.modadd rd rs1 rs2)).toNat = 0x02 * 2 ^ 24 + operands ∧
    (encodeWord (.modsub rd rs1 rs2)).toNat = 0x03 * 2 ^ 24 + operands ∧
    (encodeWord (.modmul rd rs1 rs2)).toNat = 0x04 * 2 ^ 24 + operands ∧
    (encodeWord (.moddiv rd rs1 rs2)).toNat = 0x05 * 2 ^ 24 + operands ∧
    (encodeWord (.modexp rd rs1 rs2)).toNat = 0x06 * 2 ^ 24 + operands) ∧
  (∀ (rd rs1 : RegNo) (k : BitVec 6),
    (encodeWord (.bitrev rd rs1 k)).toNat = 0x10 * 2 ^ 24 + rd.toNat * 2 ^ 20 + rs1.toNat * 2 ^ 16 + k.toNat) ∧
  (∀ (rd : RegNo) (neg : Bool), (encodeWord (.zfind rd neg)).toNat = 0x11 * 2 ^ 24 + rd.toNat * 2 ^ 20 + neg.toNat) ∧
  (∀ rs1 : RegNo, (encodeWord (.zgen rs1)).toNat = 0x12 * 2 ^ 24 + rs1.toNat * 2 ^ 16) ∧
  (∀ ed : SlotNo,
    (encodeWord (.ecreate ed)).toNat = 0x20 * 2 ^ 24 + ed.toNat * 2 ^ 16 ∧
    (encodeWord (.ntt ed)).toNat = 0x21 * 2 ^ 24 + ed.toNat * 2 ^ 16 ∧
    (encodeWord (.intt ed)).toNat = 0x22 * 2 ^ 24 + ed.toNat * 2 ^ 16) ∧
  (∀ ed ea eb : SlotNo,
    let operands := ed.toNat * 2 ^ 16 + ea.toNat * 2 ^ 8 + eb.toNat
    (encodeWord (.pwadd ed ea eb)).toNat = 0x30 * 2 ^ 24 + operands ∧
    (encodeWord (.pwsub ed ea eb)).toNat = 0x31 * 2 ^ 24 + operands ∧
    (encodeWord (.pwmul ed ea eb)).toNat = 0x32 * 2 ^ 24 + operands) ∧
  (∀ ed eb : SlotNo, (encodeWord (.matvec ed eb)).toNat = 0x40 * 2 ^ 24 + ed.toNat * 2 ^ 16 + eb.toNat)
end

