-- ==== Sys2Proof/Laws/State.lean ====
section
/-!
SUPPORT. One lemma per field per update of the state, so that no proof unfolds a record update.
-/
namespace Sys2Proof.Machine

/-! ## setSregWord -/

@[simp] theorem State.setSregWord_cfg (s : State) (r : RegNo) (w : Word) : (s.setSregWord r w).cfg = s.cfg := rfl
@[simp] theorem State.setSregWord_sregs (s : State) (r : RegNo) (w : Word) : (s.setSregWord r w).sregs = s.sregs.set r.toNat w r.isLt := rfl
@[simp] theorem State.setSregWord_mem (s : State) (r : RegNo) (w : Word) : (s.setSregWord r w).mem = s.mem := rfl
@[simp] theorem State.setSregWord_zpresent (s : State) (r : RegNo) (w : Word) : (s.setSregWord r w).zpresent = s.zpresent := rfl
@[simp] theorem State.setSregWord_code (s : State) (r : RegNo) (w : Word) : (s.setSregWord r w).code = s.code := rfl
@[simp] theorem State.setSregWord_sticky (s : State) (r : RegNo) (w : Word) : (s.setSregWord r w).sticky = s.sticky := rfl
@[simp] theorem State.setSregWord_errinfo (s : State) (r : RegNo) (w : Word) : (s.setSregWord r w).errinfo = s.errinfo := rfl
@[simp] theorem State.setSregWord_mbase (s : State) (r : RegNo) (w : Word) : (s.setSregWord r w).mbase = s.mbase := rfl
@[simp] theorem State.setSregWord_mrows (s : State) (r : RegNo) (w : Word) : (s.setSregWord r w).mrows = s.mrows := rfl
@[simp] theorem State.setSregWord_mcols (s : State) (r : RegNo) (w : Word) : (s.setSregWord r w).mcols = s.mcols := rfl
@[simp] theorem State.setSregWord_vlen (s : State) (r : RegNo) (w : Word) : (s.setSregWord r w).vlen = s.vlen := rfl
@[simp] theorem State.setSregWord_port (s : State) (r : RegNo) (w : Word) : (s.setSregWord r w).port = s.port := rfl

/-! ## setSreg -/

@[simp] theorem State.setSreg_cfg (s : State) (r : RegNo) (v : Int) : (s.setSreg r v).cfg = s.cfg := rfl
@[simp] theorem State.setSreg_sregs (s : State) (r : RegNo) (v : Int) : (s.setSreg r v).sregs = s.sregs.set r.toNat (pattern v) r.isLt := rfl
@[simp] theorem State.setSreg_mem (s : State) (r : RegNo) (v : Int) : (s.setSreg r v).mem = s.mem := rfl
@[simp] theorem State.setSreg_zpresent (s : State) (r : RegNo) (v : Int) : (s.setSreg r v).zpresent = s.zpresent := rfl
@[simp] theorem State.setSreg_code (s : State) (r : RegNo) (v : Int) : (s.setSreg r v).code = s.code := rfl
@[simp] theorem State.setSreg_sticky (s : State) (r : RegNo) (v : Int) : (s.setSreg r v).sticky = s.sticky := rfl
@[simp] theorem State.setSreg_errinfo (s : State) (r : RegNo) (v : Int) : (s.setSreg r v).errinfo = s.errinfo := rfl
@[simp] theorem State.setSreg_mbase (s : State) (r : RegNo) (v : Int) : (s.setSreg r v).mbase = s.mbase := rfl
@[simp] theorem State.setSreg_mrows (s : State) (r : RegNo) (v : Int) : (s.setSreg r v).mrows = s.mrows := rfl
@[simp] theorem State.setSreg_mcols (s : State) (r : RegNo) (v : Int) : (s.setSreg r v).mcols = s.mcols := rfl
@[simp] theorem State.setSreg_vlen (s : State) (r : RegNo) (v : Int) : (s.setSreg r v).vlen = s.vlen := rfl
@[simp] theorem State.setSreg_port (s : State) (r : RegNo) (v : Int) : (s.setSreg r v).port = s.port := rfl

/-! ## setSlot -/

@[simp] theorem State.setSlot_cfg (s : State) (k : Nat) (e : Slot) : (s.setSlot k e).cfg = s.cfg := rfl
@[simp] theorem State.setSlot_sregs (s : State) (k : Nat) (e : Slot) : (s.setSlot k e).sregs = s.sregs := rfl
@[simp] theorem State.setSlot_mem (s : State) (k : Nat) (e : Slot) : (s.setSlot k e).mem = { s.mem with slots := s.mem.slots.set k e } := rfl
@[simp] theorem State.setSlot_zpresent (s : State) (k : Nat) (e : Slot) : (s.setSlot k e).zpresent = s.zpresent := rfl
@[simp] theorem State.setSlot_code (s : State) (k : Nat) (e : Slot) : (s.setSlot k e).code = s.code := rfl
@[simp] theorem State.setSlot_sticky (s : State) (k : Nat) (e : Slot) : (s.setSlot k e).sticky = s.sticky := rfl
@[simp] theorem State.setSlot_errinfo (s : State) (k : Nat) (e : Slot) : (s.setSlot k e).errinfo = s.errinfo := rfl
@[simp] theorem State.setSlot_mbase (s : State) (k : Nat) (e : Slot) : (s.setSlot k e).mbase = s.mbase := rfl
@[simp] theorem State.setSlot_mrows (s : State) (k : Nat) (e : Slot) : (s.setSlot k e).mrows = s.mrows := rfl
@[simp] theorem State.setSlot_mcols (s : State) (k : Nat) (e : Slot) : (s.setSlot k e).mcols = s.mcols := rfl
@[simp] theorem State.setSlot_vlen (s : State) (k : Nat) (e : Slot) : (s.setSlot k e).vlen = s.vlen := rfl
@[simp] theorem State.setSlot_port (s : State) (k : Nat) (e : Slot) : (s.setSlot k e).port = s.port := rfl

/-! ## setElement -/

@[simp] theorem State.setElement_cfg (s : State) (k : Nat) (tags : Tags) (values : List Int) : (s.setElement k tags values).cfg = s.cfg := rfl
@[simp] theorem State.setElement_sregs (s : State) (k : Nat) (tags : Tags) (values : List Int) : (s.setElement k tags values).sregs = s.sregs := rfl
@[simp] theorem State.setElement_mem (s : State) (k : Nat) (tags : Tags) (values : List Int) : (s.setElement k tags values).mem = { s.mem with slots := s.mem.slots.set k { present := true, tags := tags, coeffs := values.map pattern } } := rfl
@[simp] theorem State.setElement_zpresent (s : State) (k : Nat) (tags : Tags) (values : List Int) : (s.setElement k tags values).zpresent = s.zpresent := rfl
@[simp] theorem State.setElement_code (s : State) (k : Nat) (tags : Tags) (values : List Int) : (s.setElement k tags values).code = s.code := rfl
@[simp] theorem State.setElement_sticky (s : State) (k : Nat) (tags : Tags) (values : List Int) : (s.setElement k tags values).sticky = s.sticky := rfl
@[simp] theorem State.setElement_errinfo (s : State) (k : Nat) (tags : Tags) (values : List Int) : (s.setElement k tags values).errinfo = s.errinfo := rfl
@[simp] theorem State.setElement_mbase (s : State) (k : Nat) (tags : Tags) (values : List Int) : (s.setElement k tags values).mbase = s.mbase := rfl
@[simp] theorem State.setElement_mrows (s : State) (k : Nat) (tags : Tags) (values : List Int) : (s.setElement k tags values).mrows = s.mrows := rfl
@[simp] theorem State.setElement_mcols (s : State) (k : Nat) (tags : Tags) (values : List Int) : (s.setElement k tags values).mcols = s.mcols := rfl
@[simp] theorem State.setElement_vlen (s : State) (k : Nat) (tags : Tags) (values : List Int) : (s.setElement k tags values).vlen = s.vlen := rfl
@[simp] theorem State.setElement_port (s : State) (k : Nat) (tags : Tags) (values : List Int) : (s.setElement k tags values).port = s.port := rfl

/-! ## setZetas -/

@[simp] theorem State.setZetas_cfg (s : State) (values : List Int) : (s.setZetas values).cfg = s.cfg := rfl
@[simp] theorem State.setZetas_sregs (s : State) (values : List Int) : (s.setZetas values).sregs = s.sregs := rfl
@[simp] theorem State.setZetas_mem (s : State) (values : List Int) : (s.setZetas values).mem = { s.mem with zeta := values.map pattern } := rfl
@[simp] theorem State.setZetas_zpresent (s : State) (values : List Int) : (s.setZetas values).zpresent = s.zpresent := rfl
@[simp] theorem State.setZetas_code (s : State) (values : List Int) : (s.setZetas values).code = s.code := rfl
@[simp] theorem State.setZetas_sticky (s : State) (values : List Int) : (s.setZetas values).sticky = s.sticky := rfl
@[simp] theorem State.setZetas_errinfo (s : State) (values : List Int) : (s.setZetas values).errinfo = s.errinfo := rfl
@[simp] theorem State.setZetas_mbase (s : State) (values : List Int) : (s.setZetas values).mbase = s.mbase := rfl
@[simp] theorem State.setZetas_mrows (s : State) (values : List Int) : (s.setZetas values).mrows = s.mrows := rfl
@[simp] theorem State.setZetas_mcols (s : State) (values : List Int) : (s.setZetas values).mcols = s.mcols := rfl
@[simp] theorem State.setZetas_vlen (s : State) (values : List Int) : (s.setZetas values).vlen = s.vlen := rfl
@[simp] theorem State.setZetas_port (s : State) (values : List Int) : (s.setZetas values).port = s.port := rfl

/-! ## setZetaWord -/

@[simp] theorem State.setZetaWord_cfg (s : State) (i : Nat) (w : Word) : (s.setZetaWord i w).cfg = s.cfg := rfl
@[simp] theorem State.setZetaWord_sregs (s : State) (i : Nat) (w : Word) : (s.setZetaWord i w).sregs = s.sregs := rfl
@[simp] theorem State.setZetaWord_mem (s : State) (i : Nat) (w : Word) : (s.setZetaWord i w).mem = { s.mem with zeta := s.mem.zeta.set i w } := rfl
@[simp] theorem State.setZetaWord_zpresent (s : State) (i : Nat) (w : Word) : (s.setZetaWord i w).zpresent = s.zpresent := rfl
@[simp] theorem State.setZetaWord_code (s : State) (i : Nat) (w : Word) : (s.setZetaWord i w).code = s.code := rfl
@[simp] theorem State.setZetaWord_sticky (s : State) (i : Nat) (w : Word) : (s.setZetaWord i w).sticky = s.sticky := rfl
@[simp] theorem State.setZetaWord_errinfo (s : State) (i : Nat) (w : Word) : (s.setZetaWord i w).errinfo = s.errinfo := rfl
@[simp] theorem State.setZetaWord_mbase (s : State) (i : Nat) (w : Word) : (s.setZetaWord i w).mbase = s.mbase := rfl
@[simp] theorem State.setZetaWord_mrows (s : State) (i : Nat) (w : Word) : (s.setZetaWord i w).mrows = s.mrows := rfl
@[simp] theorem State.setZetaWord_mcols (s : State) (i : Nat) (w : Word) : (s.setZetaWord i w).mcols = s.mcols := rfl
@[simp] theorem State.setZetaWord_vlen (s : State) (i : Nat) (w : Word) : (s.setZetaWord i w).vlen = s.vlen := rfl
@[simp] theorem State.setZetaWord_port (s : State) (i : Nat) (w : Word) : (s.setZetaWord i w).port = s.port := rfl

/-! ## setZpresent -/

@[simp] theorem State.setZpresent_cfg (s : State) (b : Bool) : (s.setZpresent b).cfg = s.cfg := rfl
@[simp] theorem State.setZpresent_sregs (s : State) (b : Bool) : (s.setZpresent b).sregs = s.sregs := rfl
@[simp] theorem State.setZpresent_mem (s : State) (b : Bool) : (s.setZpresent b).mem = s.mem := rfl
@[simp] theorem State.setZpresent_zpresent (s : State) (b : Bool) : (s.setZpresent b).zpresent = b := rfl
@[simp] theorem State.setZpresent_code (s : State) (b : Bool) : (s.setZpresent b).code = s.code := rfl
@[simp] theorem State.setZpresent_sticky (s : State) (b : Bool) : (s.setZpresent b).sticky = s.sticky := rfl
@[simp] theorem State.setZpresent_errinfo (s : State) (b : Bool) : (s.setZpresent b).errinfo = s.errinfo := rfl
@[simp] theorem State.setZpresent_mbase (s : State) (b : Bool) : (s.setZpresent b).mbase = s.mbase := rfl
@[simp] theorem State.setZpresent_mrows (s : State) (b : Bool) : (s.setZpresent b).mrows = s.mrows := rfl
@[simp] theorem State.setZpresent_mcols (s : State) (b : Bool) : (s.setZpresent b).mcols = s.mcols := rfl
@[simp] theorem State.setZpresent_vlen (s : State) (b : Bool) : (s.setZpresent b).vlen = s.vlen := rfl
@[simp] theorem State.setZpresent_port (s : State) (b : Bool) : (s.setZpresent b).port = s.port := rfl

/-! ## complete -/

@[simp] theorem State.complete_cfg (s : State) (code : StatusCode) (info : ErrFields) : (s.complete code info).cfg = s.cfg := rfl
@[simp] theorem State.complete_sregs (s : State) (code : StatusCode) (info : ErrFields) : (s.complete code info).sregs = s.sregs := rfl
@[simp] theorem State.complete_mem (s : State) (code : StatusCode) (info : ErrFields) : (s.complete code info).mem = s.mem := rfl
@[simp] theorem State.complete_zpresent (s : State) (code : StatusCode) (info : ErrFields) : (s.complete code info).zpresent = s.zpresent := rfl
@[simp] theorem State.complete_code (s : State) (code : StatusCode) (info : ErrFields) : (s.complete code info).code = code := rfl
@[simp] theorem State.complete_sticky (s : State) (code : StatusCode) (info : ErrFields) : (s.complete code info).sticky = (s.sticky || code != .ok) := rfl
@[simp] theorem State.complete_errinfo (s : State) (code : StatusCode) (info : ErrFields) : (s.complete code info).errinfo = info.toWord := rfl
@[simp] theorem State.complete_mbase (s : State) (code : StatusCode) (info : ErrFields) : (s.complete code info).mbase = s.mbase := rfl
@[simp] theorem State.complete_mrows (s : State) (code : StatusCode) (info : ErrFields) : (s.complete code info).mrows = s.mrows := rfl
@[simp] theorem State.complete_mcols (s : State) (code : StatusCode) (info : ErrFields) : (s.complete code info).mcols = s.mcols := rfl
@[simp] theorem State.complete_vlen (s : State) (code : StatusCode) (info : ErrFields) : (s.complete code info).vlen = s.vlen := rfl
@[simp] theorem State.complete_port (s : State) (code : StatusCode) (info : ErrFields) : (s.complete code info).port = s.port := rfl

/-! ## completeOk -/

@[simp] theorem State.completeOk_cfg (s : State) : s.completeOk.cfg = s.cfg := rfl
@[simp] theorem State.completeOk_sregs (s : State) : s.completeOk.sregs = s.sregs := rfl
@[simp] theorem State.completeOk_mem (s : State) : s.completeOk.mem = s.mem := rfl
@[simp] theorem State.completeOk_zpresent (s : State) : s.completeOk.zpresent = s.zpresent := rfl
@[simp] theorem State.completeOk_code (s : State) : s.completeOk.code = .ok := rfl
@[simp] theorem State.completeOk_mbase (s : State) : s.completeOk.mbase = s.mbase := rfl
@[simp] theorem State.completeOk_mrows (s : State) : s.completeOk.mrows = s.mrows := rfl
@[simp] theorem State.completeOk_mcols (s : State) : s.completeOk.mcols = s.mcols := rfl
@[simp] theorem State.completeOk_vlen (s : State) : s.completeOk.vlen = s.vlen := rfl
@[simp] theorem State.completeOk_port (s : State) : s.completeOk.port = s.port := rfl

/-! ## endsOk -/

@[simp] theorem State.endsOk_cfg (s : State) : s.endsOk.cfg = s.cfg := rfl
@[simp] theorem State.endsOk_sregs (s : State) : s.endsOk.sregs = s.sregs := rfl
@[simp] theorem State.endsOk_mem (s : State) : s.endsOk.mem = s.mem := rfl
@[simp] theorem State.endsOk_zpresent (s : State) : s.endsOk.zpresent = s.zpresent := rfl
@[simp] theorem State.endsOk_code (s : State) : s.endsOk.code = .ok := rfl
@[simp] theorem State.endsOk_sticky (s : State) : s.endsOk.sticky = s.sticky := rfl
@[simp] theorem State.endsOk_errinfo (s : State) : s.endsOk.errinfo = 0 := rfl
@[simp] theorem State.endsOk_mbase (s : State) : s.endsOk.mbase = s.mbase := rfl
@[simp] theorem State.endsOk_mrows (s : State) : s.endsOk.mrows = s.mrows := rfl
@[simp] theorem State.endsOk_mcols (s : State) : s.endsOk.mcols = s.mcols := rfl
@[simp] theorem State.endsOk_vlen (s : State) : s.endsOk.vlen = s.vlen := rfl
@[simp] theorem State.endsOk_port (s : State) : s.endsOk.port = s.port := rfl

/-! ## failsWith -/

@[simp] theorem State.failsWith_cfg (s : State) (code : StatusCode) (info : Word) : (s.failsWith code info).cfg = s.cfg := rfl
@[simp] theorem State.failsWith_sregs (s : State) (code : StatusCode) (info : Word) : (s.failsWith code info).sregs = s.sregs := rfl
@[simp] theorem State.failsWith_mem (s : State) (code : StatusCode) (info : Word) : (s.failsWith code info).mem = s.mem := rfl
@[simp] theorem State.failsWith_zpresent (s : State) (code : StatusCode) (info : Word) : (s.failsWith code info).zpresent = s.zpresent := rfl
@[simp] theorem State.failsWith_code (s : State) (code : StatusCode) (info : Word) : (s.failsWith code info).code = code := rfl
@[simp] theorem State.failsWith_sticky (s : State) (code : StatusCode) (info : Word) : (s.failsWith code info).sticky = true := rfl
@[simp] theorem State.failsWith_errinfo (s : State) (code : StatusCode) (info : Word) : (s.failsWith code info).errinfo = info := rfl
@[simp] theorem State.failsWith_mbase (s : State) (code : StatusCode) (info : Word) : (s.failsWith code info).mbase = s.mbase := rfl
@[simp] theorem State.failsWith_mrows (s : State) (code : StatusCode) (info : Word) : (s.failsWith code info).mrows = s.mrows := rfl
@[simp] theorem State.failsWith_mcols (s : State) (code : StatusCode) (info : Word) : (s.failsWith code info).mcols = s.mcols := rfl
@[simp] theorem State.failsWith_vlen (s : State) (code : StatusCode) (info : Word) : (s.failsWith code info).vlen = s.vlen := rfl
@[simp] theorem State.failsWith_port (s : State) (code : StatusCode) (info : Word) : (s.failsWith code info).port = s.port := rfl

/-! ## answer -/

@[simp] theorem State.answer_cfg (s : State) (w : Word) : (s.answer w).cfg = s.cfg := rfl
@[simp] theorem State.answer_sregs (s : State) (w : Word) : (s.answer w).sregs = s.sregs := rfl
@[simp] theorem State.answer_mem (s : State) (w : Word) : (s.answer w).mem = s.mem := rfl
@[simp] theorem State.answer_zpresent (s : State) (w : Word) : (s.answer w).zpresent = s.zpresent := rfl
@[simp] theorem State.answer_code (s : State) (w : Word) : (s.answer w).code = s.code := rfl
@[simp] theorem State.answer_sticky (s : State) (w : Word) : (s.answer w).sticky = s.sticky := rfl
@[simp] theorem State.answer_errinfo (s : State) (w : Word) : (s.answer w).errinfo = s.errinfo := rfl
@[simp] theorem State.answer_mbase (s : State) (w : Word) : (s.answer w).mbase = s.mbase := rfl
@[simp] theorem State.answer_mrows (s : State) (w : Word) : (s.answer w).mrows = s.mrows := rfl
@[simp] theorem State.answer_mcols (s : State) (w : Word) : (s.answer w).mcols = s.mcols := rfl
@[simp] theorem State.answer_vlen (s : State) (w : Word) : (s.answer w).vlen = s.vlen := rfl
@[simp] theorem State.answer_port (s : State) (w : Word) : (s.answer w).port = { s.port with answers := s.port.answers ++ [w] } := rfl

/-! ## withPending -/

@[simp] theorem State.withPending_cfg (s : State) (rest : List HostOp) : (s.withPending rest).cfg = s.cfg := rfl
@[simp] theorem State.withPending_sregs (s : State) (rest : List HostOp) : (s.withPending rest).sregs = s.sregs := rfl
@[simp] theorem State.withPending_mem (s : State) (rest : List HostOp) : (s.withPending rest).mem = s.mem := rfl
@[simp] theorem State.withPending_zpresent (s : State) (rest : List HostOp) : (s.withPending rest).zpresent = s.zpresent := rfl
@[simp] theorem State.withPending_code (s : State) (rest : List HostOp) : (s.withPending rest).code = s.code := rfl
@[simp] theorem State.withPending_sticky (s : State) (rest : List HostOp) : (s.withPending rest).sticky = s.sticky := rfl
@[simp] theorem State.withPending_errinfo (s : State) (rest : List HostOp) : (s.withPending rest).errinfo = s.errinfo := rfl
@[simp] theorem State.withPending_mbase (s : State) (rest : List HostOp) : (s.withPending rest).mbase = s.mbase := rfl
@[simp] theorem State.withPending_mrows (s : State) (rest : List HostOp) : (s.withPending rest).mrows = s.mrows := rfl
@[simp] theorem State.withPending_mcols (s : State) (rest : List HostOp) : (s.withPending rest).mcols = s.mcols := rfl
@[simp] theorem State.withPending_vlen (s : State) (rest : List HostOp) : (s.withPending rest).vlen = s.vlen := rfl
@[simp] theorem State.withPending_port (s : State) (rest : List HostOp) : (s.withPending rest).port = { s.port with pending := rest } := rfl

@[simp] theorem State.completeOk_errinfo (s : State) : s.completeOk.errinfo = 0 := by
  simp [completeOk, ErrFields.toWord, ErrOperand.toBits]

@[simp] theorem State.completeOk_sticky (s : State) : s.completeOk.sticky = s.sticky := by
  simp [completeOk, complete]

/-! ## assertReset -/

@[simp] theorem State.assertReset_cfg (s : State) : s.assertReset.cfg = s.cfg := rfl
@[simp] theorem State.assertReset_port (s : State) : s.assertReset.port = s.port := rfl
@[simp] theorem State.assertReset_mem (s : State) : s.assertReset.mem = Memory.reset s.cfg := rfl
@[simp] theorem State.assertReset_code (s : State) : s.assertReset.code = .ok := rfl
@[simp] theorem State.assertReset_errinfo (s : State) : s.assertReset.errinfo = 0 := rfl

/-! ## Endings in both spellings -/

/-- `complete` with a code other than OK is the failing end of R243. -/
theorem State.complete_eq_failsWith (s : State) {code : StatusCode} (h : code ≠ .ok) (info : ErrFields) :
    s.complete code info = s.failsWith code info.toWord := by
  simp [complete, failsWith, h]

/-- `completeOk` is the OK end of R241. -/
theorem State.completeOk_eq_endsOk (s : State) : s.completeOk = s.endsOk := by
  simp [completeOk, complete, endsOk, ErrFields.toWord, ErrOperand.toBits]

end Sys2Proof.Machine
end

