-- ==== Sys2Proof/Laws/Ops.lean ====
section
/-!
SUPPORT. What the shared operations do: reads after writes of registers, slots and table words; what
`check`, `firstFailure` and `conclude` can answer; and what one step of the port can be.
-/
namespace Sys2Proof.Machine

/-! ## Words -/

/-- A value in the W-bit range survives being stored and read (R10). -/
theorem s64_pattern {v : Int} (lo : -2 ^ 63 ≤ v) (hi : v < 2 ^ 63) : s64 (pattern v) = v := by
  rw [s64, pattern, BitVec.toInt_ofInt]
  exact Int.bmod_eq_of_le (by norm_num at *; omega) (by norm_num at *; omega)

@[simp] theorem pattern_s64 (p : Word) : pattern (s64 p) = p := BitVec.ofInt_toInt

/-! ## Scalar registers -/

theorem State.sregWord_setSregWord (s : State) (r r' : RegNo) (w : Word) :
    (s.setSregWord r w).sregWord r' = if r' = r then w else s.sregWord r' := by
  simp only [sregWord, setSregWord_sregs, Vector.getElem_set, ← BitVec.toNat_inj, eq_comm (a := r.toNat)]

@[simp] theorem State.sregWord_setSregWord_same (s : State) (r : RegNo) (w : Word) :
    (s.setSregWord r w).sregWord r = w := by simp [sregWord_setSregWord]

theorem State.sregWord_setSregWord_ne (s : State) {r r' : RegNo} (h : r' ≠ r) (w : Word) :
    (s.setSregWord r w).sregWord r' = s.sregWord r' := by simp [sregWord_setSregWord, h]

theorem State.sregWord_congr {s t : State} (h : t.sregs = s.sregs) (r : RegNo) : t.sregWord r = s.sregWord r := by
  simp [sregWord, h]

/-! ## Slots -/

theorem State.slot_congr {s t : State} (hm : t.mem = s.mem) (hc : t.cfg = s.cfg) (k : Nat) : t.slot k = s.slot k := by
  simp [slot, hm, hc]

theorem State.slot_setSlot (s : State) (k k' : Nat) (e : Slot) :
    (s.setSlot k e).slot k' = if k = k' ∧ k < s.mem.slots.length then e else s.slot k' := by
  simp only [slot, setSlot_mem, setSlot_cfg, List.getD_eq_getElem?_getD, List.getElem?_set]
  by_cases h : k = k'
  · subst h
    by_cases hk : k < s.mem.slots.length <;> simp [hk]
  · simp [h]

theorem State.slot_setSlot_same (s : State) {k : Nat} (h : k < s.mem.slots.length) (e : Slot) :
    (s.setSlot k e).slot k = e := by simp [slot_setSlot, h]

theorem State.slot_setSlot_ne (s : State) {k k' : Nat} (h : k' ≠ k) (e : Slot) :
    (s.setSlot k e).slot k' = s.slot k' := by simp [slot_setSlot, h.symm]

theorem State.slot_setElement_same (s : State) {k : Nat} (h : k < s.mem.slots.length) (tags : Tags) (values : List Int) :
    (s.setElement k tags values).slot k = { present := true, tags := tags, coeffs := values.map pattern } :=
  s.slot_setSlot_same h _

theorem State.slot_setElement_ne (s : State) {k k' : Nat} (h : k' ≠ k) (tags : Tags) (values : List Int) :
    (s.setElement k tags values).slot k' = s.slot k' := s.slot_setSlot_ne h _

/-- A slot that is present lies inside the slot array. -/
theorem State.lt_length_of_present (s : State) {k : Nat} (h : (s.slot k).present = true) : k < s.mem.slots.length := by
  by_contra hk
  simp [slot, List.getD_eq_getElem?_getD, List.getElem?_eq_none (Nat.le_of_not_lt hk), Slot.absent] at h

/-! ## Checks -/

@[simp] theorem check_eq_none {bad : Bool} {code : StatusCode} {info : ErrFields} :
    check bad code info = none ↔ bad = false := by
  cases bad <;> simp [check]

@[simp] theorem check_eq_some {bad : Bool} {code : StatusCode} {info : ErrFields} {f : Failure} :
    check bad code info = some f ↔ bad = true ∧ f = { code := code, info := info } := by
  cases bad <;> simp [check, eq_comm]

/-- No check of a list fails exactly when each one passes. -/
theorem firstFailure_eq_none {l : List (Option Failure)} : firstFailure l = none ↔ ∀ f ∈ l, f = none := by
  induction l with
  | nil => simp [firstFailure]
  | cons f l ih => cases f <;> simp [firstFailure, ih]

/-- A reported failure is one of the checks listed, and every check before it passes (R247). -/
theorem firstFailure_eq_some {l : List (Option Failure)} {f : Failure} :
    firstFailure l = some f ↔ ∃ before after, l = before ++ some f :: after ∧ ∀ g ∈ before, g = none := by
  constructor
  · induction l with
    | nil => simp [firstFailure]
    | cons g l ih =>
      cases g with
      | some g =>
        intro h
        simp only [firstFailure, Option.some.injEq] at h
        exact ⟨[], l, by simp [h], by simp⟩
      | none =>
        intro h
        obtain ⟨before, after, rfl, hb⟩ := ih h
        exact ⟨none :: before, after, rfl, by simpa using hb⟩
  · rintro ⟨before, after, rfl, hb⟩
    induction before with
    | nil => simp [firstFailure]
    | cons g before ih =>
      have hg : g = none := hb g (by simp)
      subst hg
      exact ih (fun x hx => hb x (by simp [hx]))

theorem firstFailure_mem {l : List (Option Failure)} {f : Failure} (h : firstFailure l = some f) : some f ∈ l := by
  obtain ⟨before, after, rfl, -⟩ := firstFailure_eq_some.mp h
  simp

/-! ## Completion -/

/-- How a command ends: with the first failure on the old state, or OK on the new one (R241, R243). -/
theorem State.conclude_cases {s finished t : State} {failure : Option Failure}
    (h : s.conclude failure finished = .next t) :
    (∃ f, failure = some f ∧ t = s.complete f.code f.info) ∨ (failure = none ∧ t = finished.completeOk) := by
  cases failure with
  | some f => exact .inl ⟨f, rfl, by simpa [conclude] using h.symm⟩
  | none => exact .inr ⟨rfl, by simpa [conclude] using h.symm⟩

theorem State.conclude_none (s finished : State) : s.conclude none finished = .next finished.completeOk := rfl

theorem State.conclude_some (s finished : State) (f : Failure) :
    s.conclude (some f) finished = .next (s.complete f.code f.info) := rfl

/-- `conclude` always answers a next state (R240). -/
theorem State.conclude_next (s finished : State) (failure : Option Failure) :
    ∃ t, s.conclude failure finished = .next t := by
  cases failure <;> exact ⟨_, rfl⟩

theorem State.scalarResult_eq (s : State) (rd : RegNo) (v : Int) :
    s.scalarResult rd v = .next (s.setSreg rd v).completeOk := rfl

/-- A command that needs an inverse ends with NO_INVERSE naming `r`, or writes its result (R130, R132). -/
theorem State.inverseResult_cases {s t : State} {rd r : RegNo} {x : Option Int}
    (h : s.inverseResult rd r x = .next t) :
    (x = none ∧ t = s.complete .noInverse (scalarInfo r)) ∨ (∃ v, x = some v ∧ t = (s.setSreg rd v).completeOk) := by
  cases x with
  | none => exact .inl ⟨rfl, by simpa [inverseResult, conclude] using h.symm⟩
  | some v => exact .inr ⟨v, rfl, by simpa [inverseResult, conclude] using h.symm⟩

/-! ## The port -/

theorem step_idle {s : State} (h : s.port.pending = []) : step s = .next s := by
  simp [step, stepPort, h]

theorem step_op {s : State} {op : HostOp} {rest : List HostOp} (h : s.port.pending = op :: rest) :
    step s = perform op (s.withPending rest) := by
  simp [step, stepPort, h]

/-- What one step can be: idle, a host read, a command, another host write, or reset (R62, R63, R280). -/
theorem step_cases {s t : State} (h : step s = .next t) :
    (s.port.pending = [] ∧ t = s) ∨
    ∃ op rest, s.port.pending = op :: rest ∧
      ((∃ addr, op = .read addr ∧ t = (s.withPending rest).answer (hostRead (s.withPending rest) addr)) ∨
       (∃ addr v, op = .write addr v ∧ hostTarget s.cfg addr = .cmd ∧ runCommand v (s.withPending rest) = .next t) ∨
       (∃ addr v, op = .write addr v ∧ hostTarget s.cfg addr ≠ .cmd ∧
          t = (s.withPending rest).writeTarget v (hostTarget s.cfg addr)) ∨
       (op = .reset ∧ t = (s.withPending rest).assertReset)) := by
  cases hp : s.port.pending with
  | nil =>
    rw [step_idle hp] at h
    exact .inl ⟨rfl, by simpa using h.symm⟩
  | cons op rest =>
    rw [step_op hp] at h
    refine .inr ⟨op, rest, rfl, ?_⟩
    cases op with
    | read addr => exact .inl ⟨addr, rfl, by simpa [perform] using h.symm⟩
    | reset => exact .inr (.inr (.inr ⟨rfl, by simpa [perform] using h.symm⟩))
    | write addr v =>
      simp only [perform, hostWrite, State.withPending_cfg] at h
      by_cases hc : hostTarget s.cfg addr = .cmd
      · rw [hc] at h
        exact .inr (.inl ⟨addr, v, rfl, hc, h⟩)
      · refine .inr (.inr (.inl ⟨addr, v, rfl, hc, ?_⟩))
        split at h
        · exact absurd (by assumption) hc
        · simpa using h.symm

/-- What a command write can be: an illegal word, or the meaning of the decoded command (R96, R97). -/
theorem runCommand_cases {v : Word} {s t : State} (h : runCommand v s = .next t) :
    (∃ e, decode s.cfg.nslot v = .error e ∧ t = s.complete .illegalCmd {}) ∨
    (∃ i, decode s.cfg.nslot v = .ok i ∧ exec i s = .next t) := by
  unfold runCommand at h
  split at h
  · exact .inl ⟨_, by assumption, by simpa [State.conclude] using h.symm⟩
  · exact .inr ⟨_, by assumption, h⟩

end Sys2Proof.Machine
end

