-- ==== Sys2Proof/Laws/Memory.lean ====
section
/-!
SUPPORT. Every operation on the storage keeps its canonical form `Memory.wf` (R24, R28, R42).
-/
namespace Sys2Proof.Machine

theorem Memory.wf_iff {c : Config} {m : Memory} :
    m.wf c = true ↔ m.slots.length = c.nslot ∧ (∀ e ∈ m.slots, e.wf c.n = true) ∧ m.zeta.length = 2 * c.n := by
  simp [Memory.wf, and_assoc]

theorem Slot.wf_iff {n : Nat} {e : Slot} :
    e.wf n = true ↔ e.coeffs.length = n ∧ (e.present = true ∨ e = Slot.absent n) := by
  simp [Slot.wf]

theorem Slot.absent_wf (n : Nat) : (Slot.absent n).wf n = true := by simp [Slot.wf_iff, Slot.absent]

theorem Memory.reset_wf (c : Config) : (Memory.reset c).wf c = true := by
  simp only [Memory.wf_iff, Memory.reset, List.length_replicate, List.mem_replicate, and_true, true_and]
  rintro e ⟨-, rfl⟩
  exact Slot.absent_wf _

theorem State.reset_mem_wf : State.reset.mem.wf State.reset.cfg = true := Memory.reset_wf _

/-- In canonical storage every slot has its form, slots past the last one included. -/
theorem State.slot_wf {s : State} (h : s.mem.wf s.cfg = true) (k : Nat) : (s.slot k).wf s.cfg.n = true := by
  obtain ⟨-, hs, -⟩ := Memory.wf_iff.mp h
  unfold State.slot
  by_cases hk : k < s.mem.slots.length
  · simpa [List.getD_eq_getElem?_getD, hk] using hs _ (List.getElem_mem hk)
  · simpa [List.getD_eq_getElem?_getD, List.getElem?_eq_none (Nat.le_of_not_lt hk)] using Slot.absent_wf _

theorem State.slot_coeffs_length {s : State} (h : s.mem.wf s.cfg = true) (k : Nat) :
    (s.slot k).coeffs.length = s.cfg.n := (Slot.wf_iff.mp (s.slot_wf h k)).1

theorem State.setSlot_wf {s : State} (h : s.mem.wf s.cfg = true) (k : Nat) {e : Slot} (he : e.wf s.cfg.n = true) :
    (s.setSlot k e).mem.wf s.cfg = true := by
  obtain ⟨hl, hs, hz⟩ := Memory.wf_iff.mp h
  refine Memory.wf_iff.mpr ⟨by simpa using hl, fun e' he' => ?_, hz⟩
  rcases List.mem_or_eq_of_mem_set he' with hm | rfl
  · exact hs _ hm
  · exact he

theorem State.setElement_wf {s : State} (h : s.mem.wf s.cfg = true) (k : Nat) (tags : Tags) {values : List Int}
    (hv : values.length = s.cfg.n) : (s.setElement k tags values).mem.wf s.cfg = true :=
  s.setSlot_wf h k (Slot.wf_iff.mpr ⟨by simpa using hv, .inl rfl⟩)

theorem State.setZetas_wf {s : State} (h : s.mem.wf s.cfg = true) {values : List Int}
    (hv : values.length = 2 * s.cfg.n) : (s.setZetas values).mem.wf s.cfg = true := by
  obtain ⟨hl, hs, -⟩ := Memory.wf_iff.mp h
  exact Memory.wf_iff.mpr ⟨hl, hs, by simpa using hv⟩

theorem State.setZetaWord_wf {s : State} (h : s.mem.wf s.cfg = true) (i : Nat) (w : Word) :
    (s.setZetaWord i w).mem.wf s.cfg = true := by
  obtain ⟨hl, hs, hz⟩ := Memory.wf_iff.mp h
  exact Memory.wf_iff.mpr ⟨hl, hs, by simpa using hz⟩

/-- Every host write other than one to CMD keeps the canonical form (R65, R66). -/
theorem State.writeTarget_wf {s : State} (h : s.mem.wf s.cfg = true) (v : Word) (target : Target) :
    (s.writeTarget v target).mem.wf s.cfg = true := by
  cases target with
  | zeta i =>
    simp only [State.writeTarget]
    split
    · exact h
    · exact s.setZetaWord_wf h i v
  | coeff k j =>
    simp only [State.writeTarget]
    split
    · rename_i hp
      exact s.setSlot_wf h k (Slot.wf_iff.mpr ⟨by simpa using s.slot_coeffs_length h k, .inl hp⟩)
    · exact h
  | tags k =>
    simp only [State.writeTarget]
    split
    · rename_i hp
      exact s.setSlot_wf h k (Slot.wf_iff.mpr ⟨s.slot_coeffs_length h k, .inl hp⟩)
    · exact h
  | _ => exact h

theorem State.assertReset_wf (s : State) : s.assertReset.mem.wf s.cfg = true := Memory.reset_wf _

@[simp] theorem genZetasTable_length (c : Config) (zeta : Int) : (genZetasTable c zeta).length = 2 * c.n := by
  simp [genZetasTable]

@[simp] theorem Slot.values_length (e : Slot) : e.values.length = e.coeffs.length := by simp [Slot.values]

end Sys2Proof.Machine
end

