-- ==== Sys2Proof/Laws/PerInstr.lean ====
section
/-!
SUPPORT. Statements about every instruction as syntax, one lemma per constructor.
-/
namespace Sys2Proof.Laws.RowSelects

/-- The encoding of an instruction is selected by its row of R93, and that row is one of the table's. -/
def Statement (i : Instr) : Prop := i.row ∈ opcodeRows ∧ i.row.selects (encode i) = true

/-- A format S word is selected by the row whose mask keeps the opcode and, of the fields, only 0. -/
theorem selects_formatS {op : BitVec 8} {rd rs1 rs2 mrd mrs1 mrs2 : RegNo} {imm mimm : BitVec 12} {pat mask : CmdWord}
    (hmask : formatS 0xFF mrd mrs1 mrs2 mimm = mask) (hpat : formatS op 0 0 0 0 = pat)
    (hrd : rd &&& mrd = 0) (hrs1 : rs1 &&& mrs1 = 0) (hrs2 : rs2 &&& mrs2 = 0) (himm : imm &&& mimm = 0) :
    (OpcodeRow.mk pat mask).selects (formatS op rd rs1 rs2 imm) = true := by
  have h : ((op ++ rd ++ rs1 ++ rs2 ++ imm) &&& (0xFF#8 ++ mrd ++ mrs1 ++ mrs2 ++ mimm) : BitVec (8 + 4 + 4 + 4 + 12)) =
      op ++ 0#4 ++ 0#4 ++ 0#4 ++ 0#12 := by
    have hop : op &&& 0xFF#8 = op := BitVec.and_allOnes
    simp only [BitVec.and_append, hop, hrd, hrs1, hrs2, himm]
    rfl
  subst hmask hpat
  exact beq_iff_eq.mpr h

/-- The same for a format E word. -/
theorem selects_formatE {op : BitVec 8} {ed ea eb med mea meb : SlotNo} {pat mask : CmdWord}
    (hmask : formatE 0xFF med mea meb = mask) (hpat : formatE op 0 0 0 = pat)
    (hed : ed &&& med = 0) (hea : ea &&& mea = 0) (heb : eb &&& meb = 0) :
    (OpcodeRow.mk pat mask).selects (formatE op ed ea eb) = true := by
  have h : ((op ++ ed ++ ea ++ eb) &&& (0xFF#8 ++ med ++ mea ++ meb) : BitVec (8 + 8 + 8 + 8)) =
      op ++ 0#8 ++ 0#8 ++ 0#8 := by
    have hop : op &&& 0xFF#8 = op := BitVec.and_allOnes
    simp only [BitVec.and_append, hop, hed, hea, heb]
    rfl
  subst hmask hpat
  exact beq_iff_eq.mpr h

theorem k_and_mask : ∀ k : BitVec 6, k.setWidth 12 &&& 0xFC0#12 = 0#12 := by decide
theorem neg_and_mask : ∀ neg : Bool, (BitVec.ofBool neg).setWidth 12 &&& 0xFFE#12 = 0#12 := by decide

theorem cred (rd rs1 : RegNo) : Statement (.cred rd rs1) :=
  ⟨by simp [Instr.row, opcodeRows], selects_formatS (mrs2 := 0xF) (mimm := 0xFFF) rfl rfl BitVec.and_zero BitVec.and_zero rfl rfl⟩
theorem modadd (rd rs1 rs2 : RegNo) : Statement (.modadd rd rs1 rs2) :=
  ⟨by simp [Instr.row, opcodeRows], selects_formatS (mimm := 0xFFF) rfl rfl BitVec.and_zero BitVec.and_zero BitVec.and_zero rfl⟩
theorem modsub (rd rs1 rs2 : RegNo) : Statement (.modsub rd rs1 rs2) :=
  ⟨by simp [Instr.row, opcodeRows], selects_formatS (mimm := 0xFFF) rfl rfl BitVec.and_zero BitVec.and_zero BitVec.and_zero rfl⟩
theorem modmul (rd rs1 rs2 : RegNo) : Statement (.modmul rd rs1 rs2) :=
  ⟨by simp [Instr.row, opcodeRows], selects_formatS (mimm := 0xFFF) rfl rfl BitVec.and_zero BitVec.and_zero BitVec.and_zero rfl⟩
theorem moddiv (rd rs1 rs2 : RegNo) : Statement (.moddiv rd rs1 rs2) :=
  ⟨by simp [Instr.row, opcodeRows], selects_formatS (mimm := 0xFFF) rfl rfl BitVec.and_zero BitVec.and_zero BitVec.and_zero rfl⟩
theorem modexp (rd rs1 rs2 : RegNo) : Statement (.modexp rd rs1 rs2) :=
  ⟨by simp [Instr.row, opcodeRows], selects_formatS (mimm := 0xFFF) rfl rfl BitVec.and_zero BitVec.and_zero BitVec.and_zero rfl⟩
theorem modinv (rd rs1 : RegNo) : Statement (.modinv rd rs1) :=
  ⟨by simp [Instr.row, opcodeRows], selects_formatS (mrs2 := 0xF) (mimm := 0xFFF) rfl rfl BitVec.and_zero BitVec.and_zero rfl rfl⟩
theorem bitrev (rd rs1 : RegNo) (k : BitVec 6) : Statement (.bitrev rd rs1 k) :=
  ⟨by simp [Instr.row, opcodeRows], selects_formatS (mrs2 := 0xF) (mimm := 0xFC0) rfl rfl BitVec.and_zero BitVec.and_zero rfl (k_and_mask k)⟩
theorem zfind (rd : RegNo) (neg : Bool) : Statement (.zfind rd neg) :=
  ⟨by simp [Instr.row, opcodeRows], selects_formatS (mrs1 := 0xF) (mrs2 := 0xF) (mimm := 0xFFE) rfl rfl BitVec.and_zero rfl rfl (neg_and_mask neg)⟩
theorem zgen (rs1 : RegNo) : Statement (.zgen rs1) :=
  ⟨by simp [Instr.row, opcodeRows], selects_formatS (mrd := 0xF) (mrs2 := 0xF) (mimm := 0xFFF) rfl rfl rfl BitVec.and_zero rfl rfl⟩
theorem ecreate (ed : SlotNo) : Statement (.ecreate ed) :=
  ⟨by simp [Instr.row, opcodeRows], selects_formatE (mea := 0xFF) (meb := 0xFF) rfl rfl BitVec.and_zero rfl rfl⟩
theorem ntt (ed : SlotNo) : Statement (.ntt ed) :=
  ⟨by simp [Instr.row, opcodeRows], selects_formatE (mea := 0xFF) (meb := 0xFF) rfl rfl BitVec.and_zero rfl rfl⟩
theorem intt (ed : SlotNo) : Statement (.intt ed) :=
  ⟨by simp [Instr.row, opcodeRows], selects_formatE (mea := 0xFF) (meb := 0xFF) rfl rfl BitVec.and_zero rfl rfl⟩
theorem pwadd (ed ea eb : SlotNo) : Statement (.pwadd ed ea eb) :=
  ⟨by simp [Instr.row, opcodeRows], selects_formatE rfl rfl BitVec.and_zero BitVec.and_zero BitVec.and_zero⟩
theorem pwsub (ed ea eb : SlotNo) : Statement (.pwsub ed ea eb) :=
  ⟨by simp [Instr.row, opcodeRows], selects_formatE rfl rfl BitVec.and_zero BitVec.and_zero BitVec.and_zero⟩
theorem pwmul (ed ea eb : SlotNo) : Statement (.pwmul ed ea eb) :=
  ⟨by simp [Instr.row, opcodeRows], selects_formatE rfl rfl BitVec.and_zero BitVec.and_zero BitVec.and_zero⟩
theorem matvec (ed eb : SlotNo) : Statement (.matvec ed eb) :=
  ⟨by simp [Instr.row, opcodeRows], selects_formatE (mea := 0xFF) rfl rfl BitVec.and_zero rfl BitVec.and_zero⟩

end Sys2Proof.Laws.RowSelects
end

