-- ==== Sys2Proof/Tests/Slice0.lean ====
section
/-!
SUPPORT. Small tests: ill-formed commands, decoding of words written out from 30_encoding.md, one or two
steps of every command against 95_test_vectors.md, and for every obligation with hypotheses a witness
that meets them. All expected values are the spec's.
-/
set_option Elab.async false

namespace Sys2Proof.Tests
open Sys2Proof.Machine

/-! ## Helpers -/

def isNext : Answer → Bool
  | .next _ => true
  | .fault _ => false
  | .refused _ => false

/-- The next state, or `s` where there is none. -/
def nextOr (s : State) : Answer → State
  | .next t => t
  | .fault _ => s
  | .refused _ => s

def after (i : Instr) (s : State) : State := nextOr s (exec i s)

theorem next_of_isNext {o : Answer} (s : State) (h : isNext o = true) : o = .next (nextOr s o) := by
  cases o <;> simp_all [isNext, nextOr]

theorem exec_after {i : Instr} {s : State} (h : isNext (exec i s) = true) : exec i s = .next (after i s) :=
  next_of_isNext s h

def mkTags (ntt mont neg : Bool) : Tags := { ntt := ntt, mont := mont, neg := neg }

def mkSlot (tags : Tags) (values : List Int) : Slot := { present := true, tags := tags, coeffs := values.map pattern }

/-- A TOY state with a table from zeta = 2, some registers, and slots in many forms; slots 7 … 31 absent. -/
def demo : State :=
  { State.reset with
    sregs := (((State.reset.sregs.set 1 (pattern 5)).set 2 (pattern 3)).set 4 (pattern (-9))).set 5 (pattern 42)
    zpresent := true
    mem :=
      { slots :=
          [mkSlot (mkTags false false true) [42, 2, 0, 0], mkSlot (mkTags true false true) [-2, -6, -4, -1],
           mkSlot (mkTags true false true) [7, 8, 7, -2], mkSlot (mkTags true true true) [1, 1, 1, 1],
           mkSlot (mkTags false false false) [1, 0, 0, 0], mkSlot (mkTags true false false) [3, 3, 6, 2],
           mkSlot (mkTags false false true) [1, 2, 3, 4]] ++ List.replicate 25 (Slot.absent 4)
        zeta := [1, 4, 2, 8, 1, 4, 2, 8].map pattern } }

def values (s : State) (k : Nat) : List Int := (s.slot k).values

/-- `demo` with the given host operations to come. -/
def demoWith (ops : List HostOp) : State := { demo with port := { pending := ops, answers := [] } }

/-- `demo` with a matrix descriptor. -/
def demoShape (base rows cols vlen : Half) : State :=
  { demo with mbase := base, mrows := rows, mcols := cols, vlen := vlen }

theorem toy_valid : Config.toy.Valid := by
  constructor <;> norm_num [Config.toy, Config.n]

theorem prod_valid : Config.prod.Valid := by
  constructor <;> norm_num [Config.prod, Config.n]

theorem demo_inv : demo.Inv := ⟨toy_valid, by decide +kernel, by decide +kernel, by decide +kernel⟩

theorem demoWith_inv (ops : List HostOp) : (demoWith ops).Inv :=
  ⟨toy_valid, demo_inv.memory, demo_inv.reserved, demo_inv.okInfo⟩

theorem demoShape_inv (base rows cols vlen : Half) : (demoShape base rows cols vlen).Inv :=
  ⟨toy_valid, demo_inv.memory, demo_inv.reserved, demo_inv.okInfo⟩

/-! ## WellFormed: an ill-formed command for each check (R94) -/

theorem test_illformed_ecreate : (Instr.ecreate 32).wellFormed 32 = false := by decide
theorem test_illformed_ntt : (Instr.ntt 40).wellFormed 32 = false := by decide
theorem test_illformed_intt : (Instr.intt 255).wellFormed 32 = false := by decide
theorem test_illformed_pwadd_ed : (Instr.pwadd 32 0 0).wellFormed 32 = false := by decide
theorem test_illformed_pwsub_ea : (Instr.pwsub 0 32 0).wellFormed 32 = false := by decide
theorem test_illformed_pwmul_eb : (Instr.pwmul 0 0 32).wellFormed 32 = false := by decide
theorem test_wellformed_matvec : (Instr.matvec 255 255).wellFormed 32 = true := by decide

/-! ## Decoding words written out from R91 to R93 -/

/-- opcode 0x01, rd 8, rs1 4 (P2 line 4) -/
theorem test_decode_cred : decode 32 (0b00000001_1000_0100_0000_000000000000#32).toNat = .ok (.cred 8 4) := by decide
/-- R100: `MODADD s3, s1, s2` -/
theorem test_decode_modadd : decode 32 (0b00000010_0011_0001_0010_000000000000#32).toNat = .ok (.modadd 3 1 2) := by decide
/-- P2 line 7 -/
theorem test_decode_modsub : decode 32 (0b00000011_1011_1010_0100_000000000000#32).toNat = .ok (.modsub 11 10 4) := by decide
/-- P2 line 2 -/
theorem test_decode_modmul : decode 32 (0b00000100_0110_0101_0010_000000000000#32).toNat = .ok (.modmul 6 5 2) := by decide
/-- P2 line 1 -/
theorem test_decode_moddiv : decode 32 (0b00000101_0101_0001_0010_000000000000#32).toNat = .ok (.moddiv 5 1 2) := by decide
/-- P2 line 5 -/
theorem test_decode_modexp : decode 32 (0b00000110_1001_0010_0001_000000000000#32).toNat = .ok (.modexp 9 2 1) := by decide
/-- P2 line 6 -/
theorem test_decode_modinv : decode 32 (0b00000111_1010_0100_0000_000000000000#32).toNat = .ok (.modinv 10 4) := by decide
/-- R100: `BITREV s2, s1, 8` -/
theorem test_decode_bitrev : decode 32 (0b00010000_0010_0001_0000_000000_001000#32).toNat = .ok (.bitrev 2 1 8) := by decide
/-- R100: `ZFIND s1, 1` -/
theorem test_decode_zfind : decode 32 (0b00010001_0001_0000_0000_00000000000_1#32).toNat = .ok (.zfind 1 true) := by decide
/-- R100: `ZGEN s1` -/
theorem test_decode_zgen : decode 32 (0b00010010_0000_0001_0000_000000000000#32).toNat = .ok (.zgen 1) := by decide
/-- P3 line 3 -/
theorem test_decode_ecreate : decode 32 (0b00100000_00000101_00000000_00000000#32).toNat = .ok (.ecreate 5) := by decide
/-- P3 line 7 -/
theorem test_decode_ntt : decode 32 (0b00100001_00000101_00000000_00000000#32).toNat = .ok (.ntt 5) := by decide
/-- P3 line 12 -/
theorem test_decode_intt : decode 32 (0b00100010_00000111_00000000_00000000#32).toNat = .ok (.intt 7) := by decide
/-- opcode 0x30, ed 8, ea 0, eb 1 -/
theorem test_decode_pwadd : decode 32 (0b00110000_00001000_00000000_00000001#32).toNat = .ok (.pwadd 8 0 1) := by decide
/-- opcode 0x31, ed 31, ea 2, eb 9 -/
theorem test_decode_pwsub : decode 32 (0b00110001_00011111_00000010_00001001#32).toNat = .ok (.pwsub 31 2 9) := by decide
/-- R100: `PWMUL e6, e0, e4` -/
theorem test_decode_pwmul : decode 32 (0b00110010_00000110_00000000_00000100#32).toNat = .ok (.pwmul 6 0 4) := by decide
/-- R100: `MATVEC e8, e4` -/
theorem test_decode_matvec : decode 32 (0b01000000_00001000_00000000_00000100#32).toNat = .ok (.matvec 8 4) := by decide
/-- R97: the all-zero and the all-ones word; P2 line 11 -/
theorem test_decode_illegal :
    decode 32 0 = .error .reservedOpcode ∧ decode 32 (BitVec.allOnes 64) = .error .highBits ∧
    decode 32 0xFFFFFFFF = .error .reservedOpcode ∧ decode 32 0x02312001 = .error .nonzeroField := by decide
/-- The host's view of the decoder, and the word it places is the one that runs. -/
theorem test_fetch_word :
    decodeTableWord 32 0x02312000 = some (.modadd 3 1 2) ∧ decodeTableWord 32 0x20200000 = none ∧
    (nextOr State.reset (step (State.reset.withFetchWord 32 0x20000000))).slot 0 =
      { present := true, tags := mkTags false false true, coeffs := [0, 0, 0, 0] } := by decide +kernel

/-! ## The functions (95_test_vectors.md 2.1 to 2.6) -/

theorem test_centred_reduce :
    [0, 8, 9, 16, 17, 25, 42, -1, -8, -9, -17, -26, 2 ^ 63 - 1, -2 ^ 63].map (centeredReduce 17) =
      [0, 8, -8, -1, 0, 8, 8, -1, -8, 8, 0, 8, 8, 8] := by decide +kernel
theorem test_modinv_values :
    ([1, 2, 3, 4, 5, 6, 7, 8, 9, 10, 11, 12, 13, 14, 15, 16].map fun a => modInverse 17 a) =
      [1, -8, 6, -4, 7, 3, 5, -2, 2, -5, -3, -7, 4, -6, 8, -1].map some ∧
    modInverse 17 (-34) = none ∧ modInverse 8380417 256 = some (-32736) := by decide +kernel
theorem test_exp_values :
    expMod 17 2 4 = 16 ∧ expMod 17 2 (-3) = 1 ∧ expMod 17 (-3) 1 = 14 ∧ expMod 17 (-3) 3 = 7 ∧ expMod 17 0 0 = 1 ∧
    expMod 8380417 1753 256 = 8380416 := by decide +kernel
theorem test_bit_reverse_values :
    [(1, 2), (2, 2), (5, 2), (6, 3), (181, 8), (5, 0), (1, 63)].map (fun p => bitReverse p.1 p.2) =
      [2, 1, 2, 3, 173, 0, 4611686018427387904] := by decide +kernel
theorem test_zeta_finder_cyclic_toy : zetaFinder Config.toy false = some 4 := by decide +kernel
theorem test_zeta_finder_prod : zetaFinder Config.prod true = some 1753 := by decide +kernel
theorem test_zeta_entries_prod :
    [1, 2, 3, 255, 256, 257, 511].map (zetaEntry Config.prod 1753) =
      [4808194, 3765607, 3761513, 7648983, 1, 4808194, 7648983] := by decide +kernel
theorem test_block_orders :
    forwardBlocks 2 = [⟨2, 0, 1⟩, ⟨1, 0, 2⟩, ⟨1, 2, 3⟩] ∧ inverseBlocks 2 = [⟨1, 0, 3⟩, ⟨1, 2, 2⟩, ⟨2, 0, 1⟩] := by
  decide

/-! ## One step of every command -/

/-- R122: 42 gives 8; −9 gives 8 (P2 line 4) -/
theorem test_cred : (after (.cred 8 5) demo).sreg 8 = 8 ∧ (after (.cred 4 4) demo).sreg 4 = 8 := by decide +kernel
/-- R123: 5 + 42 = 47 ≡ −4 -/
theorem test_modadd : (after (.modadd 1 1 5) demo).sreg 1 = -4 := by decide +kernel
/-- R124: 3 − (−9) = 12 ≡ −5 -/
theorem test_modsub : (after (.modsub 6 2 4) demo).sreg 6 = -5 := by decide +kernel
/-- R125: 5 · 5 = 25 ≡ 8, all three registers one -/
theorem test_modmul : (after (.modmul 1 1 1) demo).sreg 1 = 8 := by decide +kernel
/-- R132: 5 / 3 = −4; division by S[3] = 0 (2.9) -/
theorem test_moddiv : (after (.moddiv 5 1 2) demo).sreg 5 = -4 := by decide +kernel
theorem test_moddiv_by_zero :
    (after (.moddiv 7 1 3) demo).code = .noInverse ∧ (after (.moddiv 7 1 3) demo).errinfo = 0x0700_0000_0000_0003 := by
  decide +kernel
/-- P2 line 5: 3^5 = 243 ≡ 5 -/
theorem test_modexp : (after (.modexp 9 2 1) demo).sreg 9 = 5 := by decide +kernel
/-- P2 line 6 -/
theorem test_modinv : (after (.modinv 10 4) demo).sreg 10 = -2 := by decide +kernel
/-- P2 line 9 -/
theorem test_bitrev : (after (.bitrev 12 1 3) demo).sreg 12 = 5 := by decide +kernel
/-- a negative operand contributes its pattern: −9 = …10111 in its low five bits, reversed 11101 -/
theorem test_bitrev_negative : (after (.bitrev 12 4 5) demo).sreg 12 = 29 := by decide +kernel
/-- R153 -/
theorem test_zfind : (after (.zfind 1 true) demo).sreg 1 = 2 := by decide +kernel
/-- R155: ZGEN(0) gives 1, 0, 0, 0, 1, 0, 0, 0 although a table is present -/
theorem test_zgen : (after (.zgen 3) demo).zetas = [1, 0, 0, 0, 1, 0, 0, 0] := by decide +kernel
theorem test_ecreate : (after (.ecreate 3) demo).slot 3 = mkSlot (mkTags false false true) [0, 0, 0, 0] := by
  decide +kernel
/-- R175 -/
theorem test_ntt :
    (after (.ntt 0) demo).slot 0 = mkSlot (mkTags true false true) [-5, 4, 7, -8] := by decide +kernel
/-- 2.9: `NTT e2` on tags (1,0,1) -/
theorem test_ntt_wrong_domain :
    (after (.ntt 2) demo).code = .wrongDomain ∧ (after (.ntt 2) demo).errinfo = 0x0154_0000_0000_0002 := by
  decide +kernel
/-- R177, C1: the round trip gives 8, not 42 -/
theorem test_intt : values (after (.intt 0) (after (.ntt 0) demo)) 0 = [8, 2, 0, 0] := by decide +kernel
/-- 2.9: `INTT` on tags (0,0,1) -/
theorem test_intt_wrong_domain : (after (.intt 6) demo).errinfo = 0x0145_0000_0000_0006 := by decide +kernel
/-- R201: [7,8,7,−2] + [3,3,6,2]; neg is the AND -/
theorem test_pwadd :
    (after (.pwadd 9 2 5) demo).slot 9 = mkSlot (mkTags true false false) [-7, -6, -4, 0] := by decide +kernel
/-- 2.9: a mont mismatch -/
theorem test_pwadd_mont :
    (after (.pwadd 9 1 3) demo).code = .montgomeryMismatch ∧
    (after (.pwadd 9 1 3) demo).errinfo = 0x0275_0000_0000_0003 := by decide +kernel
/-- R202: ea minus eb -/
theorem test_pwsub : values (after (.pwsub 9 5 2) demo) 9 = [-4, -5, -1, 4] := by decide +kernel
/-- R203, in place -/
theorem test_pwmul : values (after (.pwmul 1 1 2) demo) 1 = [3, 3, 6, 2] := by decide +kernel
/-- R208: with one row and one column one product; row 0 = M(0,0)·v(0) + M(0,1)·v(1) with M = v = [e1, e2] -/
theorem test_matvec :
    (after (.matvec 9 2) (demoShape 1 1 1 1)).slot 9 = mkSlot (mkTags true false true) [3, 3, 6, 2] ∧
    values (after (.matvec 9 1) (demoShape 1 1 2 2)) 9 = [2, -2, -3, 5] := by decide +kernel
/-- R246: matrix entry (0,1) is slot 3 with tags (1,1,1); vector entry 0 is slot 7, absent -/
theorem test_matvec_entries :
    (after (.matvec 9 1) (demoShape 2 1 2 2)).code = .badOperandTags ∧
    (after (.matvec 9 1) (demoShape 2 1 2 2)).errinfo = 0x0375_0000_0001_0003 ∧
    (after (.matvec 9 7) (demoShape 2 1 1 1)).code = .elementAbsent ∧
    (after (.matvec 9 7) (demoShape 2 1 1 1)).errinfo = 0x0400_0000_0000_0007 := by decide +kernel
/-- R97 through the port; P2 lines 10 and 12 -/
theorem test_illegal_word :
    (nextOr demo (step (demo.withCommand 0))).code = .illegalCmd ∧
    (nextOr demo (step (demo.withCommand 0))).sticky = true := by decide +kernel
/-- R65, R66: a protected table word and an absent slot drop the write; TAGS of an absent slot reads 0 -/
theorem test_host_writes :
    (nextOr demo (step (demoWith [.write 0x10001 99]))).zetas = demo.zetas ∧
    (nextOr demo (step (demoWith [.write 0x011F_0000 5]))).slot 31 = Slot.absent 4 ∧
    hostRead demo 0x0107_8000 = 0 ∧ hostRead demo 0x0101_8000 = 13 := by decide +kernel

/-! ## Witnesses for the hypotheses of the obligations -/

theorem test_witness_round_trip : (Instr.pwmul 31 0 31).wellFormed 32 = true ∧ (Instr.matvec 255 255).wellFormed 1 = true := by
  decide
theorem test_witness_reencode : decode 32 0x32060004 = .ok (.pwmul 6 0 4) := by decide
theorem test_witness_illegal :
    decode demo.cfg.nslot 0x1_0000_0000 = .error .highBits ∧ decode demo.cfg.nslot 0x41000000 = .error .reservedOpcode ∧
    decode demo.cfg.nslot 0x11000002 = .error .nonzeroField ∧ decode demo.cfg.nslot 0x20200000 = .error .slotOutOfRange ∧
    (0x08000000 : Word).toNat / 2 ^ 24 ∉
      [0x01, 0x02, 0x03, 0x04, 0x05, 0x06, 0x07, 0x10, 0x11, 0x12, 0x20, 0x21, 0x22, 0x30, 0x31, 0x32, 0x40] := by decide
theorem test_witness_step_runs :
    (demoWith [.write 0x00 0x12010000]).port.pending = .write 0x00 0x12010000 :: [] ∧
    decode (demoWith [.write 0x00 0x12010000]).cfg.nslot 0x12010000 = .ok (.zgen 1) ∧ (demoWith []).port.pending = [] := by
  decide +kernel
theorem test_witness_failure :
    (∃ t, exec (.modinv 10 3) demo = .next t ∧ t.code ≠ .ok) ∧
    (∃ t, step (demo.withCommand 0) = .next t ∧ t.code ≠ .ok) :=
  ⟨⟨_, exec_after (by decide +kernel), by decide +kernel⟩, ⟨_, next_of_isNext demo (by decide +kernel), by decide +kernel⟩⟩
theorem test_witness_ok : ∃ t, exec (.ntt 0) demo = .next t ∧ t.code = .ok :=
  ⟨_, exec_after (by decide +kernel), by decide +kernel⟩
theorem test_witness_reportable :
    (Instr.ntt 31).wellFormed demo.cfg.nslot = true ∧ ∃ t, exec (.ntt 31) demo = .next t :=
  ⟨by decide +kernel, _, exec_after (by decide +kernel)⟩
theorem test_witness_status :
    (∃ t, exec (.cred 0 0) demo = .next t) ∧
    (demoWith [.write 0x01 0x100]).port.pending = .write 0x01 0x100 :: [] ∧
    (∃ t, step (demoWith [.write 0x100 7]) = .next t) ∧ (0x100 : Addr) ≠ 0x00 ∧ (0x100 : Addr) ≠ 0x01 :=
  ⟨⟨_, exec_after (by decide +kernel)⟩, by decide +kernel,
    ⟨_, next_of_isNext (demoWith [.write 0x100 7]) (by decide +kernel)⟩, by decide, by decide⟩
theorem test_witness_step_keeps :
    (demoWith [.write 0x00 0x21000000]).Inv ∧ ∃ t, step (demoWith [.write 0x00 0x21000000]) = .next t :=
  ⟨demoWith_inv _, _, next_of_isNext (demoWith [.write 0x00 0x21000000]) (by decide +kernel)⟩
theorem test_witness_configurations : Config.toy.Valid ∧ Config.prod.Valid := ⟨toy_valid, prod_valid⟩
theorem test_witness_reset : (demoWith [.reset, .read 1]).port.pending = .reset :: [.read 1] := rfl
theorem test_witness_control :
    (∃ t, exec (.matvec 9 1) (demoShape 1 1 2 2) = .next t) ∧ ∀ rs1, Instr.matvec 9 1 ≠ .zgen rs1 :=
  ⟨⟨_, exec_after (by decide +kernel)⟩, by simp⟩
theorem test_witness_present :
    (∃ t, step (demoWith [.write 0x00 0x20000000]) = .next t) ∧
    (demoWith [.write 0x00 0x20000000]).port.pending.head? ≠ some .reset ∧
    ((demoWith [.write 0x00 0x20000000]).slot 0).present = true :=
  ⟨⟨_, next_of_isNext (demoWith [.write 0x00 0x20000000]) (by decide +kernel)⟩, by decide +kernel, by decide +kernel⟩
theorem test_witness_written : demo.cfg.Valid ∧ ∃ t, exec (.ntt 0) demo = .next t :=
  ⟨toy_valid, _, exec_after (by decide +kernel)⟩
theorem test_witness_scalar_frame : scalarDest (.modadd 3 3 3) = some 3 ∧ ∃ t, exec (.modadd 3 3 3) demo = .next t :=
  ⟨rfl, _, exec_after (by decide +kernel)⟩
theorem test_witness_sources :
    scalarDest (.modinv 2 1) = some 2 ∧ demo.cfg = (demo.setSregWord 2 77).cfg ∧
    (∀ r ∈ scalarSources (.modinv 2 1), demo.sregWord r = (demo.setSregWord 2 77).sregWord r) ∧
    (∃ t, exec (.modinv 2 1) demo = .next t) ∧ ∃ t, exec (.modinv 2 1) (demo.setSregWord 2 77) = .next t :=
  ⟨rfl, rfl, by decide +kernel, ⟨_, exec_after (by decide +kernel)⟩, _, exec_after (by decide +kernel)⟩
theorem test_witness_slot_frame :
    slotDest (.pwadd 9 1 2) = some 9 ∧ (∃ t, exec (.pwadd 9 1 2) demo = .next t) ∧
    ∃ t, exec (.matvec 9 1) (demoShape 1 1 2 2) = .next t :=
  ⟨rfl, ⟨_, exec_after (by decide +kernel)⟩, _, exec_after (by decide +kernel)⟩
theorem test_witness_host_words :
    (∃ t, exec (.ntt 0) demo = .next t) ∧ ¬ mayWrite (.ntt 0) demo (hostTarget demo.cfg 0x0101_0000) := by
  refine ⟨⟨_, exec_after (by decide +kernel)⟩, ?_⟩
  have h : hostTarget demo.cfg 0x0101_0000 = .coeff 1 0 := by decide +kernel
  rw [h]
  simp [mayWrite, slotDest]
theorem test_witness_odd : 17 % 2 = 1 ∧ 8380417 % 2 = 1 ∧ 8380417 < 2 ^ 31 := by decide
theorem test_witness_modexp : demo.cfg.Valid ∧ demo.sreg 4 ≤ 0 ∧ demo.sreg 3 ≤ 0 ∧ 0 < demo.sreg 2 :=
  ⟨toy_valid, by decide +kernel, by decide +kernel, by decide +kernel⟩
theorem test_witness_modinv :
    demo.cfg.Valid ∧ demo.sreg 4 % (demo.cfg.q : Int) ≠ 0 ∧ demo.sreg 3 % (demo.cfg.q : Int) = 0 :=
  ⟨toy_valid, by decide +kernel, by decide +kernel⟩
theorem test_witness_bit_reverse : 181 < 2 ^ 8 ∧ 2 ^ 8 - 1 < 2 ^ 8 := by decide
theorem test_witness_zgen : demo.cfg.Valid ∧ ∃ t, exec (.zgen 4) demo = .next t :=
  ⟨toy_valid, _, exec_after (by decide +kernel)⟩
theorem test_witness_ecreate : demo.Inv ∧ (31 : SlotNo).toNat < demo.cfg.nslot ∧ (0 : SlotNo).toNat < demo.cfg.nslot :=
  ⟨demo_inv, by decide +kernel, by decide +kernel⟩
/-- One slot for each clause: absent 31, table absent, ntt set 1, neg clear 4, ready 0. -/
theorem test_witness_ntt :
    demo.Inv ∧ { demo with zpresent := false }.Inv ∧ (demo.slot 31).present = false ∧
    ((demo.slot 0).present = true ∧ { demo with zpresent := false }.zpresent = false) ∧
    ((demo.slot 1).present = true ∧ demo.zpresent = true ∧ (demo.slot 1).tags.ntt = true) ∧
    ((demo.slot 4).present = true ∧ (demo.slot 4).tags.ntt = false ∧ (demo.slot 4).tags.neg = false) ∧
    ((demo.slot 0).present = true ∧ (demo.slot 0).tags.ntt = false ∧ (demo.slot 0).tags.neg = true) :=
  ⟨demo_inv, ⟨toy_valid, demo_inv.memory, demo_inv.reserved, demo_inv.okInfo⟩, by decide +kernel⟩
theorem test_witness_table_reads :
    ∀ i, 1 ≤ i → i < 2 ^ 2 →
      ([1, 4, 2, 8, 1, 4, 2, 8] : List Int).getD i 0 ≡ [0, 21, -15, 8, 5, 6, 7, 9].getD i 0 [ZMOD 17] := by
  intro i h1 h2
  interval_cases i <;> decide
theorem test_witness_transform_pair :
    demo.Inv ∧ (0 : SlotNo).toNat < demo.cfg.nslot ∧ (6 : SlotNo).toNat < demo.cfg.nslot ∧ (0 : SlotNo) ≠ 6 ∧
    (2 : Int) ^ demo.cfg.n ≡ -1 [ZMOD demo.cfg.q] ∧ IsPowerTable demo.cfg 2 demo.zetas ∧ demo.zpresent = true ∧
    (demo.slot 0).present = true ∧ (demo.slot 6).present = true ∧
    (demo.slot 0).tags = { ntt := false, mont := false, neg := true } ∧
    (demo.slot 6).tags = { ntt := false, mont := false, neg := true } ∧
    ∀ j < demo.cfg.n, Centred demo.cfg.q (demo.coeff 6 j) := by
  refine ⟨demo_inv, by decide +kernel, by decide +kernel, by decide, by decide +kernel, ?_, by decide +kernel,
    by decide +kernel, by decide +kernel, by decide +kernel, by decide +kernel, ?_⟩
  · intro i h1 h2
    change i < 4 at h2
    interval_cases i <;> decide +kernel
  · intro j hj
    change j < 4 at hj
    interval_cases j <;> exact ⟨by decide +kernel, by decide +kernel⟩
/-- The five clauses on slots: 31 absent, 31 as second operand, 0 not in NTT form, twice, and a mont mismatch. -/
theorem test_witness_pointwise_guards :
    (31 : SlotNo).toNat < demo.cfg.nslot ∧ (demo.slot 31).present = false ∧ (demo.slot 1).present = true ∧
    (demo.slot 0).present = true ∧ (demo.slot 0).tags.ntt = false ∧ (demo.slot 1).tags.ntt = true ∧
    (demo.slot 3).present = true ∧ (demo.slot 3).tags.ntt = true ∧ (demo.slot 1).tags.mont ≠ (demo.slot 3).tags.mont ∧
    (demo.slot 2).present = true ∧ (demo.slot 2).tags.ntt = true ∧ (demo.slot 1).tags.mont = (demo.slot 2).tags.mont := by
  decide +kernel
/-- Past the checks, with the destination one of the operands and with mont = 1. -/
theorem test_witness_pointwise_results :
    demo.Inv ∧ (1 : SlotNo).toNat < demo.cfg.nslot ∧ (demo.slot 1).present = true ∧ (demo.slot 2).present = true ∧
    (demo.slot 1).tags.ntt = true ∧ (demo.slot 2).tags.ntt = true ∧ (demo.slot 1).tags.mont = (demo.slot 2).tags.mont ∧
    (demo.slot 3).present = true ∧ (demo.slot 3).tags.ntt = true :=
  ⟨demo_inv, by decide +kernel⟩
/-- The six shape clauses at their boundaries, NSLOT = 32: MCOLS 2 against VLEN 3; no rows; a matrix run to
33, a vector run to 33 after a matrix run to 32, an output run to 33, an output run in the matrix or the vector. -/
theorem test_witness_matvec_shapes :
    ((demoShape 0 1 2 3).mcols.toNat ≠ (demoShape 0 1 2 3).vlen.toNat) ∧
    ((demoShape 0 0 2 2).mcols.toNat = (demoShape 0 0 2 2).vlen.toNat ∧ (demoShape 0 0 2 2).mrows.toNat = 0) ∧
    (demoShape 31 1 2 2).cfg.nslot <
      (demoShape 31 1 2 2).mbase.toNat + (demoShape 31 1 2 2).mrows.toNat * (demoShape 31 1 2 2).mcols.toNat ∧
    ((demoShape 30 1 2 2).mbase.toNat + (demoShape 30 1 2 2).mrows.toNat * (demoShape 30 1 2 2).mcols.toNat ≤
        (demoShape 30 1 2 2).cfg.nslot ∧
      (demoShape 30 1 2 2).cfg.nslot < (31 : SlotNo).toNat + (demoShape 30 1 2 2).vlen.toNat) ∧
    ((30 : SlotNo).toNat + (demoShape 30 1 2 2).vlen.toNat ≤ (demoShape 30 1 2 2).cfg.nslot ∧
      (demoShape 30 1 2 2).cfg.nslot < (32 : SlotNo).toNat + (demoShape 30 1 2 2).mrows.toNat) ∧
    ((31 : SlotNo).toNat + (demoShape 30 1 2 2).mrows.toNat ≤ (demoShape 30 1 2 2).cfg.nslot ∧
      ∃ i < (demoShape 30 1 2 2).mrows.toNat,
        (∃ r < (demoShape 30 1 2 2).mrows.toNat, ∃ j < (demoShape 30 1 2 2).mcols.toNat,
          (31 : SlotNo).toNat + i = (demoShape 30 1 2 2).mbase.toNat + r * (demoShape 30 1 2 2).mcols.toNat + j) ∨
        ∃ j < (demoShape 30 1 2 2).vlen.toNat, (31 : SlotNo).toNat + i = (5 : SlotNo).toNat + j) ∧
    ((6 : SlotNo).toNat + (demoShape 30 1 2 2).mrows.toNat ≤ (demoShape 30 1 2 2).cfg.nslot ∧
      ∃ i < (demoShape 30 1 2 2).mrows.toNat,
        ∃ j < (demoShape 30 1 2 2).vlen.toNat, (6 : SlotNo).toNat + i = (5 : SlotNo).toNat + j) := by
  decide +kernel

/-- Runs that lie one after the other do not meet. -/
theorem shapeOk_of_runs (s : State) (ed eb : SlotNo) (dims : s.mcols = s.vlen) (rows : s.mrows = 1) (cols : s.mcols ≠ 0)
    (matrix : s.mbase.toNat + s.mcols.toNat ≤ ed.toNat) (vector : eb.toNat + s.vlen.toNat ≤ s.cfg.nslot)
    (output : ed.toNat + 1 ≤ s.cfg.nslot) (apart : eb.toNat + s.vlen.toNat ≤ ed.toNat ∨ ed.toNat < eb.toNat) :
    MatvecShapeOk s ed eb := by
  have h1 : s.mrows.toNat = 1 := by rw [rows]; rfl
  constructor
  case rows => rw [rows]; decide
  case apartMatrix =>
    intro i r j hi hr hj
    have : r = 0 := by omega
    subst this
    omega
  case apartVector =>
    intro i j hi hj
    omega
  all_goals first | assumption | (rw [h1]; omega)

/-- Output 9 against matrix 1 … 2 and vector 1 … 2. -/
theorem test_witness_matvec_good :
    (demoShape 1 1 2 2).Inv ∧ MatvecShapeOk (demoShape 1 1 2 2) 9 1 ∧
    (∀ i j, i < (demoShape 1 1 2 2).mrows.toNat → j < (demoShape 1 1 2 2).mcols.toNat →
      (demoShape 1 1 2 2).goodEntry
        ((demoShape 1 1 2 2).mbase.toNat + i * (demoShape 1 1 2 2).mcols.toNat + j)) ∧
    ∀ j < (demoShape 1 1 2 2).vlen.toNat, (demoShape 1 1 2 2).goodEntry ((1 : SlotNo).toNat + j) := by
  refine ⟨demoShape_inv _ _ _ _, ?_, ?_, ?_⟩
  · apply shapeOk_of_runs <;> decide +kernel
  · intro i j hi hj
    change i < 1 at hi
    change j < 2 at hj
    interval_cases i
    interval_cases j <;> exact ⟨by decide +kernel, by decide +kernel⟩
  · intro j hj
    change j < 2 at hj
    interval_cases j <;> exact ⟨by decide +kernel, by decide +kernel⟩
/-- A first bad matrix entry: (0,1) in slot 3 with tags (1,1,1) after a good (0,0); (0,0) in slot 7, absent. -/
theorem test_witness_matvec_matrix_entries :
    (MatvecShapeOk (demoShape 2 1 2 2) 9 1 ∧ (demoShape 2 1 2 2).matrixSlot 0 1 = 3 ∧
      (∀ i' j', i' < (demoShape 2 1 2 2).mrows.toNat → j' < (demoShape 2 1 2 2).mcols.toNat → i' < 0 ∨ (i' = 0 ∧ j' < 1) →
        (demoShape 2 1 2 2).goodEntry ((demoShape 2 1 2 2).matrixSlot i' j')) ∧
      ((demoShape 2 1 2 2).slot 3).present = true ∧ ¬ (demoShape 2 1 2 2).goodEntry 3) ∧
    (MatvecShapeOk (demoShape 7 1 1 1) 9 1 ∧ (demoShape 7 1 1 1).matrixSlot 0 0 = 7 ∧
      ((demoShape 7 1 1 1).slot 7).present = false) := by
  refine ⟨⟨?_, by decide +kernel, ?_, by decide +kernel, fun h => ?_⟩, ?_, by decide +kernel, by decide +kernel⟩
  · apply shapeOk_of_runs <;> decide +kernel
  · intro i' j' h1 h2 h3
    obtain ⟨rfl, rfl⟩ : i' = 0 ∧ j' = 0 := by omega
    exact ⟨by decide +kernel, by decide +kernel⟩
  · exact absurd h.2 (by decide +kernel)
  · apply shapeOk_of_runs <;> decide +kernel
/-- A first bad vector entry after a good matrix entry in slot 2: slot 3 with tags (1,1,1), slot 7 absent. -/
theorem test_witness_matvec_vector_entries :
    (∀ i j, i < (demoShape 2 1 1 1).mrows.toNat → j < (demoShape 2 1 1 1).mcols.toNat →
      (demoShape 2 1 1 1).goodEntry ((demoShape 2 1 1 1).matrixSlot i j)) ∧
    (MatvecShapeOk (demoShape 2 1 1 1) 9 3 ∧ vectorSlot 3 0 = 3 ∧ ((demoShape 2 1 1 1).slot 3).present = true ∧
      ¬ (demoShape 2 1 1 1).goodEntry 3) ∧
    (MatvecShapeOk (demoShape 2 1 1 1) 9 7 ∧ vectorSlot 7 0 = 7 ∧ ((demoShape 2 1 1 1).slot 7).present = false) := by
  refine ⟨?_, ⟨?_, by decide, by decide +kernel, fun h => ?_⟩, ?_, by decide, by decide +kernel⟩
  · intro i j hi hj
    change i < 1 at hi
    change j < 1 at hj
    obtain ⟨rfl, rfl⟩ : i = 0 ∧ j = 0 := by omega
    exact ⟨by decide +kernel, by decide +kernel⟩
  · apply shapeOk_of_runs <;> decide +kernel
  · exact absurd h.2 (by decide +kernel)
  · apply shapeOk_of_runs <;> decide +kernel
/-- A state for each code of R242, and the word STATUS reads with BAD_SHAPE and STICKY set: 12 + 256. -/
theorem test_witness_status_codes :
    demo.cfg.Valid ∧ (∀ c : StatusCode, { demo with code := c }.cfg.Valid ∧ { demo with code := c }.code = c) ∧
    hostRead { demo with code := .badShape, sticky := true } 0x01 = 268 :=
  ⟨toy_valid, fun _ => ⟨toy_valid, rfl⟩, by decide +kernel⟩
/-- The fields of an ERRINFO for each OPERAND number of R245. -/
theorem test_witness_operands : ∀ o : ErrOperand, ({ operand := o } : ErrFields).operand = o := fun _ => rfl
theorem test_witness_host_read : (demoWith [.read 0x0101_8000]).port.pending = .read 0x0101_8000 :: [] := rfl
/-- The last words of each range, for TOY: Z[7], c[3] of slot 31, TAGS of slot 31, S[15], VLEN, CFG_NSLOT. -/
theorem test_witness_host_write :
    (demoWith [.write 0x06 1]).cfg.Valid ∧ (demoWith [.write 0x06 1]).port.pending = .write 0x06 1 :: [] ∧
    (0x06 : Addr).toNat ≤ 0x06 ∧ (0x10F : Addr).toNat = 0x100 + (15 : RegNo).toNat ∧
    (7 < 2 * demo.cfg.n ∧ (0x10007 : Addr).toNat = 0x1_0000 + 7) ∧
    (31 < demo.cfg.nslot ∧ 3 < demo.cfg.n ∧ (0x011F_0003 : Addr).toNat = 0x100_0000 + 31 * 0x1_0000 + 3) ∧
    (0x011F_8000 : Addr).toNat = 0x100_0000 + 31 * 0x1_0000 + 0x8000 ∧ (demo.slot 31).present = false ∧
    (demo.slot 0).present = true ∧ demo.zpresent = true ∧ State.reset.zpresent = false :=
  ⟨toy_valid, by decide +kernel⟩
theorem test_witness_read_after_write :
    (demoWith [.write 0x0100_0003 77]).Inv ∧ (∃ t, step (demoWith [.write 0x0100_0003 77]) = .next t) ∧
    ((demoWith [.write 0x0100_0003 77]).slot 0).present = true ∧ (0x0100_0003 : Addr).toNat = 0x100_0000 + 0 * 0x1_0000 + 3 ∧
    (0x0100_0002 : Addr) ≠ 0x0100_0003 :=
  ⟨demoWith_inv _, ⟨_, next_of_isNext (demoWith [.write 0x0100_0003 77]) (by decide +kernel)⟩, by decide +kernel, by decide,
    by decide⟩
/-- One address for each unmapped range, at its edge, for TOY. -/
theorem test_witness_unmapped :
    demo.cfg.Valid ∧ (0x0C ≤ (0x0C : Addr).toNat ∧ (0xFF : Addr).toNat < 0x100) ∧ (0x110 ≤ (0x110 : Addr).toNat) ∧
    (0x1_0000 + 2 * demo.cfg.n ≤ (0x10008 : Addr).toNat) ∧
    (demo.cfg.nslot ≤ ((0x0120_0000 : Addr).toNat - 0x100_0000) / 0x1_0000) ∧
    (demo.cfg.n ≤ (0x0100_0004 : Addr).toNat % 0x1_0000 ∧ (0x0100_0004 : Addr).toNat % 0x1_0000 ≠ 0x8000) ∧
    (demoWith [.write 0x0C 1]).port.pending = .write 0x0C 1 :: [] :=
  ⟨toy_valid, by decide +kernel⟩

end Sys2Proof.Tests
end

section
/-!
SUPPORT. What a command's failing checks and results are like: no check reports OK, every list a command
writes has the length of the list it replaces, and ERRINFO has no bit outside its fields.
-/
namespace Sys2Proof.Machine

/-! ## ERRINFO -/

theorem ErrFields.toWord_and_reserved (f : ErrFields) : f.toWord &&& errInfoReserved = 0 := by
  have h : ((0#4 ++ f.operand.toBits ++ 0#1 ++ f.actual ++ 0#1 ++ f.expected ++ f.row ++ f.col ++ f.slot) &&&
      (0xF#4 ++ 0#4 ++ 1#1 ++ 0#3 ++ 1#1 ++ 0#3 ++ 0#16 ++ 0#16 ++ 0#16) : BitVec (4 + 4 + 1 + 3 + 1 + 3 + 16 + 16 + 16)) =
      0#64 := by
    simp only [BitVec.and_append, BitVec.and_zero, BitVec.zero_and]
    rfl
  exact h

/-! ## The codes of failing checks -/

theorem firstFailure_code_ne_ok {l : List (Option Failure)} (hl : ∀ o ∈ l, ∀ f, o = some f → f.code ≠ .ok)
    {f : Failure} (h : firstFailure l = some f) : f.code ≠ .ok :=
  hl _ (firstFailure_mem h) f rfl

theorem State.slotFieldCheck_code_ne_ok {s : State} {i : Instr} {f : Failure} (h : s.slotFieldCheck i = some f) :
    f.code ≠ .ok := by
  obtain ⟨-, rfl⟩ := check_eq_some.mp h
  decide

theorem State.nttFailure_code_ne_ok {s : State} {ed : SlotNo} {f : Failure} (h : s.nttFailure ed = some f) :
    f.code ≠ .ok := by
  refine firstFailure_code_ne_ok ?_ h
  simp [slotFieldCheck, absentCheck, tableCheck, domainCheck, negacyclicCheck]

theorem State.inttFailure_code_ne_ok {s : State} {ed : SlotNo} {f : Failure} (h : s.inttFailure ed = some f) :
    f.code ≠ .ok := by
  refine firstFailure_code_ne_ok ?_ h
  simp [slotFieldCheck, absentCheck, tableCheck, domainCheck]

theorem State.pointwiseFailure_code_ne_ok {s : State} {i : Instr} {ea eb : SlotNo} {f : Failure}
    (h : s.pointwiseFailure i ea eb = some f) : f.code ≠ .ok := by
  refine firstFailure_code_ne_ok ?_ h
  simp [slotFieldCheck, absentCheck, nttFormCheck, montgomeryCheck]

theorem State.entryCheck_code_ne_ok {s : State} {e : Entry} {f : Failure} (h : s.entryCheck e = some f) :
    f.code ≠ .ok := by
  refine firstFailure_code_ne_ok ?_ h
  simp

theorem State.shapeFailure_code_ne_ok {s : State} {ed eb : SlotNo} {f : Failure} (h : s.shapeFailure ed eb = some f) :
    f.code ≠ .ok := by
  refine firstFailure_code_ne_ok ?_ h
  simp

theorem State.entryFailure_code_ne_ok {s : State} {eb : SlotNo} {f : Failure} (h : s.entryFailure eb = some f) :
    f.code ≠ .ok := by
  unfold entryFailure at h
  split at h
  case h_1 g hg =>
    cases h
    obtain ⟨e, -, he⟩ := List.exists_of_findSome?_eq_some hg
    exact entryCheck_code_ne_ok he
  case h_2 =>
    obtain ⟨e, -, he⟩ := List.exists_of_findSome?_eq_some h
    exact entryCheck_code_ne_ok he

theorem State.matvecFailure_code_ne_ok {s : State} {ed eb : SlotNo} {f : Failure} (h : s.matvecFailure ed eb = some f) :
    f.code ≠ .ok := by
  unfold matvecFailure at h
  split at h
  case h_1 g hg =>
    cases h
    exact shapeFailure_code_ne_ok hg
  case h_2 => exact entryFailure_code_ne_ok h

/-! ## Lengths of results -/

theorem length_foldl_of_keeps {α β : Type} {f : List α → β → List α} (hf : ∀ c b, (f c b).length = c.length)
    (l : List β) (c : List α) : (l.foldl f c).length = c.length := by
  induction l generalizing c with
  | nil => rfl
  | cons b l ih => rw [List.foldl_cons, ih, hf]

@[simp] theorem forwardTransform_length (q logN : Nat) (zetas c : List Int) :
    (forwardTransform q logN zetas c).length = c.length :=
  length_foldl_of_keeps (fun _ _ => length_foldl_of_keeps (fun _ _ => by simp [forwardButterfly]) _ _) _ _

@[simp] theorem inverseTransform_length (q logN : Nat) (zetas c : List Int) :
    (inverseTransform q logN zetas c).length = c.length := by
  rw [inverseTransform, List.length_map]
  exact length_foldl_of_keeps (fun _ _ => length_foldl_of_keeps (fun _ _ => by simp [inverseButterfly]) _ _) _ _

theorem State.slot_values_length {s : State} (h : s.mem.wf s.cfg = true) (k : Nat) :
    (s.slot k).values.length = s.cfg.n := by rw [Slot.values_length, s.slot_coeffs_length h]

theorem State.zipWith_values_length {s : State} (h : s.mem.wf s.cfg = true) (f : Int → Int → Int) (k k' : Nat) :
    (List.zipWith f (s.slot k).values (s.slot k').values).length = s.cfg.n := by
  simp [s.slot_coeffs_length h]

theorem State.rowResult_length {s : State} (h : s.mem.wf s.cfg = true) (eb : SlotNo) (i : Nat) :
    (s.rowResult eb i).length = s.cfg.n := by
  have hp (j : Nat) : (s.entryProduct eb i j).length = s.cfg.n := s.zipWith_values_length h _ _ _
  unfold rowResult
  generalize List.range' 1 (s.mcols.toNat - 1) = l
  exact List.foldlRecOn l _ (motive := fun acc : List Int => acc.length = s.cfg.n) (hp 0)
    (fun acc hacc j _ => by simp [hacc, hp])

theorem State.matvecResult_keeps (s : State) (ed eb : SlotNo) :
    (s.matvecResult ed eb).cfg = s.cfg ∧ (s.mem.wf s.cfg = true → (s.matvecResult ed eb).mem.wf s.cfg = true) := by
  refine List.foldlRecOn (List.range s.mrows.toNat) _
    (motive := fun t : State => t.cfg = s.cfg ∧ (s.mem.wf s.cfg = true → t.mem.wf s.cfg = true)) ⟨rfl, id⟩ ?_
  rintro t ⟨hc, hw⟩ i -
  refine ⟨hc, fun h => ?_⟩
  rw [← hc] at hw ⊢
  exact t.setElement_wf (hw (hc ▸ h)) _ _ (by rw [hc, s.rowResult_length h])

end Sys2Proof.Machine
end

section
/-!
The invariant of the machine: how every command ends, said once, then each host operation and the step;
settles O12, O13 and O15.
-/
namespace Sys2Proof.Machine

/-! ## How a command ends -/

/-- `u` is the state after the writes of command `i` started on `s`, before its completion (R133, R155,
R158, R180, R212, R230): one register, the table, one element, or the output run of MATVEC. -/
inductive CommandWrites (s : State) : Instr → State → Prop where
  | register {i : Instr} {rd : RegNo} (dest : scalarDest i = some rd) (v : Int) : CommandWrites s i (s.setSreg rd v)
  | table (rs1 : RegNo) :
      CommandWrites s (.zgen rs1) ((s.setZetas (genZetasTable s.cfg (s.sreg rs1))).setZpresent true)
  | element {i : Instr} {ed : SlotNo} (dest : slotDest i = some ed) (tags : Tags) {values : List Int}
      (length : s.mem.wf s.cfg = true → values.length = s.cfg.n) :
      CommandWrites s i (s.setElement ed.toNat tags values)
  | run (ed eb : SlotNo) : CommandWrites s (.matvec ed eb) (s.matvecResult ed eb)

/-- `t` is how command `i` started on `s` can end: with a failing check and nothing written (R243), or OK
after its writes (R241). -/
inductive CommandEnds (s : State) (i : Instr) : State → Prop where
  | failed {code : StatusCode} (ne_ok : code ≠ .ok) (info : ErrFields) : CommandEnds s i (s.complete code info)
  | wrote {u : State} (writes : CommandWrites s i u) : CommandEnds s i u.completeOk

theorem conclude_ends {i : Instr} {s u t : State} {failure : Option Failure}
    (hf : ∀ {f}, failure = some f → f.code ≠ .ok) (hw : CommandWrites s i u) (h : s.conclude failure u = .next t) :
    CommandEnds s i t := by
  obtain ⟨f, hs, rfl⟩ | ⟨-, rfl⟩ := State.conclude_cases h
  · exact .failed (hf hs) _
  · exact .wrote hw

theorem scalarResult_ends {i : Instr} {s t : State} {rd : RegNo} {v : Int} (hd : scalarDest i = some rd)
    (h : s.scalarResult rd v = .next t) : CommandEnds s i t :=
  conclude_ends (failure := none) nofun (.register hd v) h

theorem inverseResult_ends {i : Instr} {s t : State} {rd r : RegNo} {x : Option Int} (hd : scalarDest i = some rd)
    (h : s.inverseResult rd r x = .next t) : CommandEnds s i t := by
  obtain ⟨-, rfl⟩ | ⟨v, -, rfl⟩ := State.inverseResult_cases h
  · exact .failed (by decide) _
  · exact .wrote (.register hd v)

theorem execZfind_ends {s t : State} {rd : RegNo} {neg : Bool} (h : execZfind rd neg s = .next t) :
    CommandEnds s (.zfind rd neg) t := by
  unfold execZfind at h
  split at h
  · rw [State.conclude_some] at h
    cases h
    exact .failed (by decide) _
  · exact conclude_ends (failure := none) nofun (.register rfl _) h

theorem pointwise_writes {i : Instr} {ed : SlotNo} (hd : slotDest i = some ed) (s : State) (f : Int → Int → Int)
    (ea eb : SlotNo) : CommandWrites s i (s.pointwise f ed ea eb) :=
  .element hd _ fun h => s.zipWith_values_length h f _ _

/-- Every command ends in one of the two ways (R240, R241, R243). -/
theorem exec_ends {i : Instr} {s t : State} (h : exec i s = .next t) : CommandEnds s i t := by
  cases i with
  | cred => exact scalarResult_ends rfl h
  | modadd => exact scalarResult_ends rfl h
  | modsub => exact scalarResult_ends rfl h
  | modmul => exact scalarResult_ends rfl h
  | moddiv => exact inverseResult_ends rfl h
  | modexp => exact scalarResult_ends rfl h
  | modinv => exact inverseResult_ends rfl h
  | bitrev => exact scalarResult_ends rfl h
  | zfind => exact execZfind_ends h
  | zgen rs1 => exact conclude_ends (failure := none) nofun (.table rs1) h
  | ecreate => exact conclude_ends State.slotFieldCheck_code_ne_ok (.element rfl _ (by simp)) h
  | ntt =>
    exact conclude_ends State.nttFailure_code_ne_ok
      (.element rfl _ fun hs => (forwardTransform_length ..).trans (s.slot_values_length hs _)) h
  | intt =>
    exact conclude_ends State.inttFailure_code_ne_ok
      (.element rfl _ fun hs => (inverseTransform_length ..).trans (s.slot_values_length hs _)) h
  | pwadd => exact conclude_ends State.pointwiseFailure_code_ne_ok (pointwise_writes rfl ..) h
  | pwsub => exact conclude_ends State.pointwiseFailure_code_ne_ok (pointwise_writes rfl ..) h
  | pwmul => exact conclude_ends State.pointwiseFailure_code_ne_ok (pointwise_writes rfl ..) h
  | matvec ed eb => exact conclude_ends State.matvecFailure_code_ne_ok (.run ed eb) h

theorem CommandWrites.cfg_eq {s u : State} {i : Instr} (h : CommandWrites s i u) : u.cfg = s.cfg := by
  cases h with
  | run ed eb => exact (s.matvecResult_keeps ed eb).1
  | _ => rfl

theorem CommandWrites.wf {s u : State} {i : Instr} (h : CommandWrites s i u) (hs : s.mem.wf s.cfg = true) :
    u.mem.wf s.cfg = true := by
  cases h with
  | register => exact hs
  | table => exact s.setZetas_wf hs (genZetasTable_length ..)
  | element _ tags length => exact s.setElement_wf hs _ tags (length hs)
  | run ed eb => exact (s.matvecResult_keeps ed eb).2 hs

theorem exec_cfg {i : Instr} {s t : State} (h : exec i s = .next t) : t.cfg = s.cfg := by
  cases exec_ends h with
  | failed => rfl
  | wrote writes => exact writes.cfg_eq

/-! ## Host writes other than to CMD -/

theorem State.writeTarget_keeps (s : State) (v : Word) (target : Target) :
    (s.writeTarget v target).cfg = s.cfg ∧ (s.writeTarget v target).code = s.code ∧
      (s.writeTarget v target).errinfo = s.errinfo := by
  cases target with
  | zeta i => by_cases h : s.zpresent <;> simp [writeTarget, h]
  | coeff k j => by_cases h : (s.slot k).present <;> simp [writeTarget, h]
  | tags k => by_cases h : (s.slot k).present <;> simp [writeTarget, h]
  | _ => exact ⟨rfl, rfl, rfl⟩

/-! ## The invariant -/

theorem State.resetOf_inv {c : Config} (h : c.Valid) : (State.resetOf c).Inv :=
  ⟨h, Memory.reset_wf c, BitVec.zero_and, fun _ => rfl⟩

theorem State.Inv.of_kept {s t : State} (h : s.Inv) (hc : t.cfg = s.cfg) (hm : t.mem.wf s.cfg = true)
    (hk : t.code = s.code) (he : t.errinfo = s.errinfo) : t.Inv :=
  ⟨hc ▸ h.valid, hc ▸ hm, he ▸ h.reserved, fun hok => he ▸ h.okInfo (hk ▸ hok)⟩

theorem State.Inv.complete {s : State} (h : s.Inv) {code : StatusCode} (hc : code ≠ .ok) (info : ErrFields) :
    (s.complete code info).Inv :=
  ⟨h.valid, h.memory, info.toWord_and_reserved, fun hok => absurd hok hc⟩

theorem State.completeOk_inv {s : State} (hv : s.cfg.Valid) (hm : s.mem.wf s.cfg = true) : s.completeOk.Inv :=
  ⟨hv, hm, by simp, fun _ => s.completeOk_errinfo⟩

theorem State.Inv.exec {i : Instr} {s t : State} (hs : s.Inv) (h : exec i s = .next t) : t.Inv := by
  cases exec_ends h with
  | failed ne_ok info => exact hs.complete ne_ok info
  | wrote writes =>
    have hc := writes.cfg_eq
    exact completeOk_inv (hc ▸ hs.valid) (hc ▸ writes.wf hs.memory)

theorem State.Inv.runCommand {v : Word} {s t : State} (hs : s.Inv) (h : runCommand v s = .next t) : t.Inv := by
  obtain ⟨-, -, rfl⟩ | ⟨i, -, hi⟩ := runCommand_cases h
  · exact hs.complete (by decide) {}
  · exact hs.exec hi

theorem State.Inv.step {s t : State} (hs : s.Inv) (h : step s = .next t) : t.Inv := by
  obtain ⟨-, rfl⟩ | ⟨op, rest, -, hop⟩ := step_cases h
  · exact hs
  have hp : (s.withPending rest).Inv := hs.of_kept rfl hs.memory rfl rfl
  obtain ⟨addr, -, rfl⟩ | ⟨addr, v, -, -, hcmd⟩ | ⟨addr, v, -, -, rfl⟩ | ⟨-, rfl⟩ := hop
  · exact hp.of_kept rfl hp.memory rfl rfl
  · exact hp.runCommand hcmd
  · obtain ⟨hcfg, hcode, herr⟩ := (s.withPending rest).writeTarget_keeps v (hostTarget s.cfg addr)
    exact hp.of_kept hcfg (State.writeTarget_wf hp.memory _ _) hcode herr
  · exact (resetOf_inv hs.valid).of_kept rfl (Memory.reset_wf _) rfl rfl

theorem runCommand_cfg {v : Word} {s t : State} (h : runCommand v s = .next t) : t.cfg = s.cfg := by
  obtain ⟨-, -, rfl⟩ | ⟨i, -, hi⟩ := runCommand_cases h
  · rfl
  · exact exec_cfg hi

theorem step_cfg {s t : State} (h : step s = .next t) : t.cfg = s.cfg := by
  obtain ⟨-, rfl⟩ | ⟨op, rest, -, hop⟩ := step_cases h
  · rfl
  obtain ⟨addr, -, rfl⟩ | ⟨addr, v, -, -, hcmd⟩ | ⟨addr, v, -, -, rfl⟩ | ⟨-, rfl⟩ := hop
  · rfl
  · exact runCommand_cfg (s := s.withPending rest) hcmd
  · exact ((s.withPending rest).writeTarget_keeps v _).1
  · rfl

end Sys2Proof.Machine

namespace Sys2Proof

/-! The two named configurations (R6) meet R5 and R8; said here so that no proof leans on the tests. -/

theorem Config.toy_valid : Config.toy.Valid := by
  constructor <;> norm_num [Config.toy, Config.n]

theorem Config.prod_valid : Config.prod.Valid := by
  constructor <;> norm_num [Config.prod, Config.n]

open Machine

/-- Settles O12: a step is idle, a read, a command, a plain host write or a reset, and each keeps the invariant. -/
theorem stepKeepsInvariant : Obligations.StepKeepsInvariant := fun _ _ hs h => hs.step h

/-- Settles O15: no command, host write or reset writes the configuration. -/
theorem configurationNeverChanges : Obligations.ConfigurationNeverChanges := fun _ _ => step_cfg

/-- Settles O13: reset storage is canonical, and ERRINFO is 0. -/
theorem resetMeetsInvariant : Obligations.ResetMeetsInvariant :=
  ⟨fun _ => State.resetOf_inv, State.resetOf_inv Config.toy_valid, State.resetOf_inv Config.prod_valid⟩

end Sys2Proof
end

section
/-!
The root search: `expMod` is the raw power, roots of −1 exist and have the order R157 says, and the search
answers the least one; settles O32.
-/
namespace Sys2Proof.Machine

/-! ## Exponentiation -/

/-- With enough fuel the recursion of R127 gives the raw power. -/
theorem expModFuel_of_pos (q : Nat) (base : Int) {fuel : Nat} {e : Int} (pos : 0 < e) (enough : e ≤ fuel) :
    expModFuel q base fuel e = base ^ e.toNat % (q : Int) := by
  induction fuel generalizing e with
  | zero => omega
  | succ fuel ih =>
    by_cases one : e = 1
    · simp [expModFuel, one, rawResidue]
    have square : rawResidue q (expModFuel q base fuel (e / 2) * expModFuel q base fuel (e / 2)) =
        base ^ (2 * (e / 2).toNat) % (q : Int) := by
      rw [ih (by omega) (by omega), rawResidue, ← Int.mul_emod, two_mul, pow_add]
    by_cases odd : e % 2 = 1
    · have half : e.toNat = 2 * (e / 2).toNat + 1 := by omega
      simp only [expModFuel, pos.not_ge, one, odd, if_true, if_false, square, half]
      rw [rawResidue, pow_succ]
      exact (Int.mod_modEq ..).mul_right base
    · have half : e.toNat = 2 * (e / 2).toNat := by omega
      simp [expModFuel, pos.not_ge, one, odd, square, half]

theorem expMod_of_pos (q : Nat) (base : Int) {e : Int} (pos : 0 < e) :
    expMod q base e = base ^ e.toNat % (q : Int) :=
  expModFuel_of_pos q base pos (by omega)

/-! ## The root search -/

/-- The search answers the first candidate that passes (R152). -/
theorem findRootFrom_eq_some {q : Nat} {e : Int} {count z w : Nat} (lo : z ≤ w) (hi : w < z + count)
    (root : expMod q w e = (q : Int) - 1) (least : ∀ y, z ≤ y → y < w → expMod q y e ≠ (q : Int) - 1) :
    findRootFrom q e count z = some w := by
  induction count generalizing z with
  | zero => omega
  | succ count ih =>
    unfold findRootFrom
    obtain rfl | lt := lo.eq_or_lt
    · rw [if_pos root]
    · rw [if_neg (least z le_rfl lt)]
      exact ih lt (by omega) fun y hy => least y (by omega)

/-- The test of the search, on natural numbers. -/
theorem expMod_two_pow_eq_neg_one_iff {q : Nat} (hq : 1 ≤ q) (z k : Nat) :
    expMod q z (2 ^ k) = (q : Int) - 1 ↔ z ^ 2 ^ k % q = q - 1 := by
  have hk : ((2 : Int) ^ k).toNat = 2 ^ k := by exact_mod_cast Int.toNat_natCast (2 ^ k)
  rw [expMod_of_pos q z (by positivity), hk, ← Int.natCast_inj, Nat.cast_sub hq]
  simp

/-! ## Roots of −1 modulo a prime -/

theorem pow_mod_eq_sub_one_iff {q : Nat} (hq : 1 < q) (z e : Nat) :
    z ^ e % q = q - 1 ↔ (z : ZMod q) ^ e = -1 := by
  have hneg : ((q - 1 : Nat) : ZMod q) = -1 := by simp [Nat.cast_sub hq.le]
  rw [← hneg, ← Nat.cast_pow, ZMod.natCast_eq_natCast_iff', Nat.mod_eq_of_lt (a := q - 1) (by omega)]

theorem two_le_of_pow_mod_eq {q : Nat} (hq : 2 < q) {z e : Nat} (he : 0 < e) (hz : z ^ e % q = q - 1) : 2 ≤ z := by
  by_contra! small
  interval_cases z
  · rw [zero_pow he.ne', Nat.zero_mod] at hz
    omega
  · rw [one_pow, Nat.mod_eq_of_lt (by omega)] at hz
    omega

/-- A root of z^(2^k) = −1 has order 2^(k+1) (R157). -/
theorem orderOf_of_pow_eq_neg_one {q : Nat} (hq : 2 < q) {z : ZMod q} {k : Nat} (hz : z ^ 2 ^ k = -1) :
    orderOf z = 2 * 2 ^ k := by
  have : Fact (2 < q) := ⟨hq⟩
  rw [← pow_succ']
  refine orderOf_eq_prime_pow ?_ ?_
  · rw [hz]
    exact ZMod.neg_one_ne_one
  · rw [pow_succ, pow_mul, hz, neg_one_sq]

/-- The multiplicative group modulo a prime is cyclic, so it holds an element of every order dividing
Q − 1; its power to half that order is −1. -/
theorem exists_pow_eq_neg_one {q : Nat} [Fact q.Prime] {e : Nat} (dvd : 2 * e ∣ q - 1) :
    ∃ z : ZMod q, z ^ e = -1 := by
  obtain ⟨g, hg⟩ := IsCyclic.exists_ofOrder_eq_natCard (α := (ZMod q)ˣ)
  obtain ⟨m, hm⟩ := dvd
  have order : orderOf g = e * m * 2 := by
    rw [hg, Nat.card_eq_fintype_card, ZMod.card_units, hm]
    ring
  have two : IsPrimitiveRoot (g ^ (e * m)) 2 := (IsPrimitiveRoot.orderOf g).pow (orderOf_pos g) order
  refine ⟨((g ^ m : (ZMod q)ˣ) : ZMod q), ?_⟩
  rw [← Units.val_pow_eq_pow_val, ← pow_mul, mul_comm m e]
  exact (IsPrimitiveRoot.coe_units_iff.mpr two).eq_neg_one_of_two_right

/-- The search of R152 has a root to find in every configuration of R5. -/
theorem exists_root {c : Config} (hc : c.Valid) (neg : Bool) :
    ∃ z < c.q, z ^ 2 ^ rootExponent c neg % c.q = c.q - 1 := by
  have : Fact c.q.Prime := ⟨hc.prime⟩
  have : NeZero c.q := ⟨hc.prime.ne_zero⟩
  have dvd : 2 * 2 ^ rootExponent c neg ∣ c.q - 1 := by
    refine dvd_trans (Nat.mul_dvd_mul_left 2 (Nat.pow_dvd_pow 2 ?_)) hc.dvd
    unfold rootExponent
    split <;> omega
  obtain ⟨z, hz⟩ := exists_pow_eq_neg_one dvd
  exact ⟨z.val, z.val_lt, (pow_mod_eq_sub_one_iff hc.prime.one_lt _ _).mpr (by rwa [ZMod.natCast_zmod_val])⟩

/-- When a root is below Q the search answers the least one. -/
theorem zetaFinder_eq_some {c : Config} (hq : 1 ≤ c.q) {neg : Bool} {z : Nat} (lt : z < c.q)
    (root : z ^ 2 ^ rootExponent c neg % c.q = c.q - 1)
    (least : ∀ y < z, y ^ 2 ^ rootExponent c neg % c.q ≠ c.q - 1) : zetaFinder c neg = some z :=
  findRootFrom_eq_some z.zero_le (by omega) ((expMod_two_pow_eq_neg_one_iff hq _ _).mpr root)
    fun y _ hy => (expMod_two_pow_eq_neg_one_iff hq _ _).not.mpr (least y hy)

theorem execZfind_of_some {s : State} {neg : Bool} {z : Nat} (h : zetaFinder s.cfg neg = some z) (rd : RegNo) :
    exec (.zfind rd neg) s = .next (s.setSreg rd z).endsOk := by
  simp only [exec, execZfind, h, State.conclude_none, State.completeOk_eq_endsOk]

theorem State.sreg_setSreg_same (s : State) (rd : RegNo) {v : Int} (lo : -2 ^ 63 ≤ v) (hi : v < 2 ^ 63) :
    (s.setSreg rd v).sreg rd = v := by
  rw [sreg, setSreg, sregWord_setSregWord_same, s64_pattern lo hi]

end Sys2Proof.Machine

namespace Sys2Proof
open Machine

/-- Settles O32: Q − 1 is a multiple of 2e, so the cyclic group modulo Q holds a root; the search stops at the
least one, and every root of z^e = −1 with e a power of two has order 2e. -/
theorem zfindFindsTheLeastRoot : Obligations.ZfindFindsTheLeastRoot := by
  intro s rd neg hc e
  have he : e = 2 ^ rootExponent s.cfg neg := rfl
  have hroot := exists_root hc neg
  rw [← he] at hroot
  obtain ⟨lt, root⟩ := Nat.find_spec hroot
  generalize hz : Nat.find hroot = z at lt root
  have least : ∀ y < z, y ^ e % s.cfg.q ≠ s.cfg.q - 1 := fun y hy hy' =>
    Nat.find_min hroot (hz ▸ hy) ⟨hy.trans lt, hy'⟩
  have order : orderOf (z : ZMod s.cfg.q) = 2 * e :=
    orderOf_of_pow_eq_neg_one hc.three_le ((pow_mod_eq_sub_one_iff hc.prime.one_lt z e).mp root)
  have two_le : 2 ≤ z := two_le_of_pow_mod_eq hc.three_le (by positivity) root
  have small : z < 2 ^ 31 := lt.trans hc.q_lt
  exact ⟨z, two_le, lt, root, least, order,
    execZfind_of_some (zetaFinder_eq_some hc.prime.one_lt.le lt root least) rd,
    s.sreg_setSreg_same rd (by omega) (by omega)⟩

end Sys2Proof
end

section
/-!
The host port: which address names which target (R61), what a target reads as and what a write to it does;
settles O6, O14, O50 and O51.
-/
namespace Sys2Proof

theorem Config.Valid.n_le {c : Config} (hc : c.Valid) : c.n ≤ 2 ^ 15 := Nat.pow_le_pow_right (by decide) hc.logN_le

end Sys2Proof

namespace Sys2Proof.Machine

/-! ## The address map (R61) -/

theorem hostTarget_control (c : Config) {a : Addr} (h : a.toNat < 0x100) :
    hostTarget c a = controlTarget a.toNat := if_pos h

theorem hostTarget_sreg (c : Config) {a : Addr} {r : RegNo} (h : a.toNat = 0x100 + r.toNat) :
    hostTarget c a = .sreg r := by
  have control : ¬ a.toNat < 0x100 := by omega
  have sreg : a.toNat < 0x110 := by omega
  have hr : BitVec.ofNat 4 (a.toNat - 0x100) = r := by simp [h]
  simp only [hostTarget, control, sreg, hr, if_true, if_false]

theorem hostTarget_zeta {c : Config} {a : Addr} {i : Nat} (hi : i < 2 * c.n) (h : a.toNat = 0x1_0000 + i) :
    hostTarget c a = .zeta i := by
  have control : ¬ a.toNat < 0x100 := by omega
  have sreg : ¬ a.toNat < 0x110 := by omega
  have gap : ¬ a.toNat < 0x1_0000 := by omega
  have table : a.toNat < 0x1_0000 + 2 * c.n := by omega
  have hz : a.toNat - 0x1_0000 = i := by omega
  simp only [hostTarget, control, sreg, gap, table, hz, if_true, if_false]

/-- The table ends below the first window, and an offset below 0x10000 stays inside its window. -/
theorem hostTarget_window {c : Config} (hc : c.Valid) {a : Addr} {k off : Nat} (hoff : off < 0x1_0000)
    (h : a.toNat = 0x100_0000 + k * 0x1_0000 + off) : hostTarget c a = slotTarget c k off := by
  have hn := hc.n_le
  have control : ¬ a.toNat < 0x100 := by omega
  have sreg : ¬ a.toNat < 0x110 := by omega
  have gap : ¬ a.toNat < 0x1_0000 := by omega
  have table : ¬ a.toNat < 0x1_0000 + 2 * c.n := by omega
  have below : ¬ a.toNat < 0x100_0000 := by omega
  have hk : (a.toNat - 0x100_0000) / 0x1_0000 = k := by omega
  have ho : (a.toNat - 0x100_0000) % 0x1_0000 = off := by omega
  simp only [hostTarget, control, sreg, gap, table, below, hk, ho, if_false]

theorem hostTarget_coeff {c : Config} (hc : c.Valid) {a : Addr} {k j : Nat} (hk : k < c.nslot) (hj : j < c.n)
    (h : a.toNat = 0x100_0000 + k * 0x1_0000 + j) : hostTarget c a = .coeff k j := by
  have hn := hc.n_le
  rw [hostTarget_window hc (by omega) h, slotTarget, if_neg hk.not_ge, if_neg (by omega), if_pos hj]

theorem hostTarget_tags {c : Config} (hc : c.Valid) {a : Addr} {k : Nat} (hk : k < c.nslot)
    (h : a.toNat = 0x100_0000 + k * 0x1_0000 + 0x8000) : hostTarget c a = .tags k := by
  rw [hostTarget_window hc (by decide) h, slotTarget, if_neg hk.not_ge, if_pos rfl]

theorem controlTarget_eq_cmd_iff {n : Nat} : controlTarget n = .cmd ↔ n = 0 := by
  unfold controlTarget
  split <;> simp_all

theorem controlTarget_eq_status_iff {n : Nat} : controlTarget n = .status ↔ n = 1 := by
  unfold controlTarget
  split <;> simp_all

theorem hostTarget_ne_of_not_control (c : Config) {a : Addr} (h : ¬ a.toNat < 0x100) :
    hostTarget c a ≠ .cmd ∧ hostTarget c a ≠ .status := by
  simp only [hostTarget, slotTarget, h, if_false]
  repeat' split
  all_goals exact ⟨nofun, nofun⟩

/-- CMD has no other address than 0 (R32). -/
theorem hostTarget_eq_cmd_iff {c : Config} {a : Addr} : hostTarget c a = .cmd ↔ a = 0x00 := by
  rw [← BitVec.toNat_inj]
  by_cases h : a.toNat < 0x100
  · rw [hostTarget_control c h, controlTarget_eq_cmd_iff]
    rfl
  · exact iff_of_false (hostTarget_ne_of_not_control c h).1 fun h0 => h (h0 ▸ by decide)

/-- STATUS has no other address than 1 (R32). -/
theorem hostTarget_eq_status_iff {c : Config} {a : Addr} : hostTarget c a = .status ↔ a = 0x01 := by
  rw [← BitVec.toNat_inj]
  by_cases h : a.toNat < 0x100
  · rw [hostTarget_control c h, controlTarget_eq_status_iff]
    rfl
  · exact iff_of_false (hostTarget_ne_of_not_control c h).2 fun h1 => h (h1 ▸ by decide)

/-! ## Reads (R62) -/

theorem hostRead_of_target {s : State} {a : Addr} {target : Target} (h : hostTarget s.cfg a = target) :
    hostRead s a = s.readTarget target := h ▸ rfl

theorem statusWord_toNat (code : StatusCode) (sticky : Bool) :
    (statusWord code sticky).toNat = code.toBits.toNat + 256 * sticky.toNat := by
  cases code <;> cases sticky <;> rfl

theorem Tags.word_toNat (t : Tags) :
    ((1#1 ++ t.toBits).setWidth 64).toNat = t.ntt.toNat + 2 * t.mont.toNat + 4 * t.neg.toNat + 8 := by
  obtain ⟨ntt, mont, neg⟩ := t
  cases ntt <;> cases mont <;> cases neg <;> rfl

theorem Slot.tagsWord_toNat (e : Slot) :
    e.tagsWord.toNat =
      if e.present then e.tags.ntt.toNat + 2 * e.tags.mont.toNat + 4 * e.tags.neg.toNat + 8 else 0 := by
  unfold tagsWord
  split
  · exact e.tags.word_toNat
  · rfl

/-! ## Writes other than to CMD (R63) -/

/-- A write to a target other than CMD has the effect `writeTarget` gives, once the operation is taken. -/
theorem step_write {s : State} {a : Addr} {v : Word} {rest : List HostOp} {target : Target}
    (hp : s.port.pending = .write a v :: rest) (ht : hostTarget s.cfg a = target) (hne : target ≠ .cmd) :
    step s = .next ((s.withPending rest).writeTarget v target) := by
  rw [step_op hp]
  simp only [perform, hostWrite, State.withPending_cfg, ht]

/-! A table word is written only while ZPRESENT = 0, and a slot only while it is present (R65, R66). -/

theorem State.writeTarget_zeta_of_zpresent (s : State) (h : s.zpresent = true) (v : Word) (i : Nat) :
    s.writeTarget v (.zeta i) = s := if_pos h

theorem State.writeTarget_zeta (s : State) (h : s.zpresent = false) (v : Word) (i : Nat) :
    s.writeTarget v (.zeta i) = s.setZetaWord i v := if_neg (by simp [h])

theorem State.writeTarget_coeff_of_absent (s : State) {k : Nat} (h : (s.slot k).present = false) (v : Word) (j : Nat) :
    s.writeTarget v (.coeff k j) = s := if_neg (by simp [h])

theorem State.writeTarget_coeff (s : State) {k : Nat} (h : (s.slot k).present = true) (v : Word) (j : Nat) :
    s.writeTarget v (.coeff k j) = s.setSlot k { s.slot k with coeffs := (s.slot k).coeffs.set j v } := if_pos h

theorem State.writeTarget_tags_of_absent (s : State) {k : Nat} (h : (s.slot k).present = false) (v : Word) :
    s.writeTarget v (.tags k) = s := if_neg (by simp [h])

theorem State.writeTarget_tags (s : State) {k : Nat} (h : (s.slot k).present = true) (v : Word) :
    s.writeTarget v (.tags k) = s.setSlot k { s.slot k with tags := Tags.ofWord v } := if_pos h

/-! ## Commands (R33) -/

/-- A CMD write of a legal word is the meaning of the decoded command. -/
theorem step_command {s : State} {v : Word} {rest : List HostOp} {i : Instr}
    (hp : s.port.pending = .write 0x00 v :: rest) (hd : decode s.cfg.nslot v = .ok i) :
    step s = exec i (s.withPending rest) := by
  have hc : hostTarget s.cfg 0x00 = .cmd := rfl
  simp only [step_op hp, perform, hostWrite, runCommand, State.withPending_cfg, hc, hd]

/-! ## Reset (R42) -/

@[simp] theorem State.assertReset_slot (s : State) (k : Nat) : s.assertReset.slot k = Slot.absent s.cfg.n := by
  by_cases hk : k < s.cfg.nslot <;> simp [slot, Memory.reset, hk]

@[simp] theorem State.assertReset_zetaWord (s : State) (i : Nat) : s.assertReset.zetaWord i = 0 := by
  by_cases hi : i < 2 * s.cfg.n <;> simp [zetaWord, Memory.reset, hi]

@[simp] theorem State.assertReset_sregWord (s : State) (r : RegNo) : s.assertReset.sregWord r = 0 :=
  Vector.getElem_replicate ..

@[simp] theorem State.assertReset_coeff (s : State) (k j : Nat) : s.assertReset.coeff k j = 0 := by
  by_cases hj : j < s.cfg.n <;> simp [coeff, Slot.values, Slot.absent, s64, hj]

end Sys2Proof.Machine

namespace Sys2Proof
open Machine

/-- Settles O6: address 0 names CMD, so the step hands the decoded command to `exec`. -/
theorem stepRunsDecodedCommand : Obligations.StepRunsDecodedCommand :=
  ⟨fun _ _ _ _ => step_command, fun _ => step_idle⟩

/-- Settles O14: the storage after reset is replicated absent slots and zero words. -/
theorem resetOperationGivesResetValues : Obligations.ResetOperationGivesResetValues := by
  intro s rest hp
  refine ⟨(s.withPending rest).assertReset, by rw [step_op hp, perform], State.assertReset_sregWord _,
    List.length_replicate .., fun k => ?_, List.length_replicate .., State.assertReset_zetaWord _,
    rfl, rfl, rfl, rfl, rfl, rfl, rfl, rfl, rfl⟩
  rw [State.assertReset_slot]
  exact ⟨rfl, rfl, rfl, rfl, List.length_replicate .., State.assertReset_coeff _ k⟩

/-- Settles O50: each address names the target the map lists for it, and each target reads as its word. -/
theorem hostSpaceContents : Obligations.HostSpaceContents := by
  intro s hc
  have hn := hc.n_le
  have hq := hc.q_lt
  have hlogN := hc.logN_le
  have hnslot := hc.nslot_le
  refine ⟨rfl, fun p hp hcode => ?_, rfl, Nat.mod_eq_of_lt (by omega), Nat.mod_eq_of_lt (by omega),
    Nat.mod_eq_of_lt (by omega), Nat.mod_eq_of_lt (by omega),
    (BitVec.toNat_setWidth_of_le (by decide)).trans (BitVec.toNat_ofBool _),
    BitVec.toNat_setWidth_of_le (by decide), BitVec.toNat_setWidth_of_le (by decide),
    BitVec.toNat_setWidth_of_le (by decide), BitVec.toNat_setWidth_of_le (by decide),
    fun r => ?_, fun i hi => ?_, fun k hk => ⟨fun j hj => ?_, ?_⟩⟩
  · have code : p.1.toBits.toNat = p.2 := by
      clear hcode
      revert p
      decide
    rw [hostRead_of_target (target := .status) rfl, State.readTarget, statusWord_toNat, hcode, code]
  · exact hostRead_of_target (hostTarget_sreg _ (Nat.mod_eq_of_lt (by omega)))
  · exact hostRead_of_target (hostTarget_zeta hi (Nat.mod_eq_of_lt (by omega)))
  · exact hostRead_of_target (hostTarget_coeff hc hk hj (Nat.mod_eq_of_lt (by omega)))
  · rw [hostRead_of_target (hostTarget_tags hc hk (Nat.mod_eq_of_lt (by omega)))]
    exact Slot.tagsWord_toNat _

/-- Settles O51: a write to an address other than CMD's is the write to the target the map lists for it. -/
theorem hostWriteEffects : Obligations.HostWriteEffects := by
  intro s a v rest hc hp p
  refine ⟨fun h => step_write (target := .status) hp (h ▸ rfl) nofun, fun lo hi => ?_,
    fun h => step_write (target := .zctl) hp (h ▸ rfl) nofun,
    fun h => step_write (target := .mbase) hp (h ▸ rfl) nofun,
    fun h => step_write (target := .mrows) hp (h ▸ rfl) nofun,
    fun h => step_write (target := .mcols) hp (h ▸ rfl) nofun,
    fun h => step_write (target := .vlen) hp (h ▸ rfl) nofun,
    fun r h => step_write hp (hostTarget_sreg _ h) nofun,
    fun i hi h => ?_, fun k hk => ⟨fun j hj h => ?_, fun h => ?_⟩⟩
  · have ht : hostTarget s.cfg a = controlTarget a.toNat := hostTarget_control _ (by omega)
    generalize a.toNat = n at lo hi ht
    interval_cases n <;> exact step_write hp ht nofun
  · rw [step_write hp (hostTarget_zeta hi h) nofun]
    exact ⟨fun present => congrArg _ ((s.withPending rest).writeTarget_zeta_of_zpresent present v i),
      fun absent => congrArg _ ((s.withPending rest).writeTarget_zeta absent v i)⟩
  · rw [step_write hp (hostTarget_coeff hc hk hj h) nofun]
    exact ⟨fun absent => congrArg _ ((s.withPending rest).writeTarget_coeff_of_absent absent v j),
      fun present => congrArg _ ((s.withPending rest).writeTarget_coeff present v j)⟩
  · rw [step_write hp (hostTarget_tags hc hk h) nofun]
    exact ⟨fun absent => congrArg _ ((s.withPending rest).writeTarget_tags_of_absent absent v),
      fun present => congrArg _ ((s.withPending rest).writeTarget_tags present v)⟩

end Sys2Proof
end

section
/-!
What every command leaves as it was (R71), what sets and clears STICKY (R34), and that presence of a slot is
lost at reset only (R26); settles O11, O16 and O17.
-/
namespace Sys2Proof.Machine

/-! ## The writes of a command -/

/-- What holds of `s` and is kept by the write of one output element holds after the whole output run of
MATVEC (R209). -/
theorem State.matvecResult_induction {P : State → Prop} {s : State} (ed eb : SlotNo) (start : P s)
    (keep : ∀ t i, P t → P (t.setElement (outputSlot ed i) Tags.frequency (s.rowResult eb i))) :
    P (s.matvecResult ed eb) :=
  List.foldlRecOn _ _ start fun t ht i _ => keep t i ht

theorem SameControl.refl (s : State) : SameControl s s := ⟨rfl, rfl, rfl, rfl, rfl, rfl⟩

theorem SameControl.setElement {s t : State} (h : SameControl s t) (k : Nat) (tags : Tags) (values : List Int) :
    SameControl s (t.setElement k tags values) := ⟨h.cfg, h.mbase, h.mrows, h.mcols, h.vlen, h.port⟩

theorem SameControl.complete {s t : State} (h : SameControl s t) (code : StatusCode) (info : ErrFields) :
    SameControl s (t.complete code info) := ⟨h.cfg, h.mbase, h.mrows, h.mcols, h.vlen, h.port⟩

theorem CommandWrites.sameControl {s u : State} {i : Instr} (h : CommandWrites s i u) : SameControl s u := by
  cases h with
  | register => exact ⟨rfl, rfl, rfl, rfl, rfl, rfl⟩
  | table => exact ⟨rfl, rfl, rfl, rfl, rfl, rfl⟩
  | element => exact (SameControl.refl s).setElement ..
  | run ed eb => exact State.matvecResult_induction ed eb (.refl s) fun _ _ ht => ht.setElement ..

theorem CommandWrites.sticky_eq {s u : State} {i : Instr} (h : CommandWrites s i u) : u.sticky = s.sticky := by
  cases h with
  | run ed eb => exact State.matvecResult_induction (P := (·.sticky = s.sticky)) ed eb rfl fun _ _ ht => ht
  | _ => rfl

/-- Only ZGEN writes the table and ZPRESENT (R71). -/
theorem CommandWrites.table_eq {s u : State} {i : Instr} (h : CommandWrites s i u) (hi : ∀ rs1, i ≠ .zgen rs1) :
    u.zpresent = s.zpresent ∧ u.mem.zeta = s.mem.zeta := by
  cases h with
  | register => exact ⟨rfl, rfl⟩
  | table rs1 => exact absurd rfl (hi rs1)
  | element => exact ⟨rfl, rfl⟩
  | run ed eb =>
    exact State.matvecResult_induction (P := fun t => t.zpresent = s.zpresent ∧ t.mem.zeta = s.mem.zeta) ed eb
      ⟨rfl, rfl⟩ fun _ _ ht => ht

/-! ## Commands -/

theorem exec_sameControl {i : Instr} {s t : State} (h : exec i s = .next t) : SameControl s t := by
  cases exec_ends h with
  | failed => exact (SameControl.refl s).complete ..
  | wrote writes => exact writes.sameControl.complete ..

theorem exec_table_eq {i : Instr} {s t : State} (h : exec i s = .next t) (hi : ∀ rs1, i ≠ .zgen rs1) :
    t.zpresent = s.zpresent ∧ t.mem.zeta = s.mem.zeta := by
  cases exec_ends h with
  | failed => exact ⟨rfl, rfl⟩
  | wrote writes => exact writes.table_eq hi

/-- A command sets STICKY with a code other than OK and never clears it (R34). -/
theorem exec_sticky {i : Instr} {s t : State} (h : exec i s = .next t) : t.sticky = (s.sticky || t.code != .ok) := by
  cases exec_ends h with
  | failed => rfl
  | wrote writes => simp [writes.sticky_eq]

/-! ## Host writes other than to CMD -/

theorem State.writeTarget_sticky (s : State) (v : Word) {target : Target} (h : target ≠ .status) :
    (s.writeTarget v target).sticky = s.sticky := by
  cases target with
  | status => exact absurd rfl h
  | zeta i => by_cases hz : s.zpresent <;> simp [writeTarget, hz]
  | coeff k j => by_cases hp : (s.slot k).present <;> simp [writeTarget, hp]
  | tags k => by_cases hp : (s.slot k).present <;> simp [writeTarget, hp]
  | _ => rfl

/-! ## Presence (R26) -/

/-- Slot `k` is present in `t` if it was in `s`. -/
def KeepsPresent (k : Nat) (s t : State) : Prop := (s.slot k).present = true → (t.slot k).present = true

theorem KeepsPresent.refl (k : Nat) (s : State) : KeepsPresent k s s := id

theorem KeepsPresent.setSlot {k : Nat} {s t : State} (h : KeepsPresent k s t) (k' : Nat) {e : Slot}
    (he : e.present = true) : KeepsPresent k s (t.setSlot k' e) := by
  intro hs
  rw [State.slot_setSlot]
  split
  · exact he
  · exact h hs

theorem CommandWrites.keepsPresent {s u : State} {i : Instr} (h : CommandWrites s i u) (k : Nat) :
    KeepsPresent k s u := by
  cases h with
  | register => exact .refl k s
  | table => exact .refl k s
  | element => exact (KeepsPresent.refl k s).setSlot _ rfl
  | run ed eb => exact State.matvecResult_induction ed eb (.refl k s) fun _ _ ht => ht.setSlot _ rfl

theorem exec_keepsPresent {i : Instr} {s t : State} (h : exec i s = .next t) (k : Nat) : KeepsPresent k s t := by
  cases exec_ends h with
  | failed => exact .refl k s
  | wrote writes => exact writes.keepsPresent k

theorem runCommand_keepsPresent {v : Word} {s t : State} (h : runCommand v s = .next t) (k : Nat) :
    KeepsPresent k s t := by
  obtain ⟨-, -, rfl⟩ | ⟨i, -, hi⟩ := runCommand_cases h
  · exact .refl k s
  · exact exec_keepsPresent hi k

/-- A host write into a slot takes place only while the slot is present, and leaves it so (R65). -/
theorem State.writeTarget_keepsPresent (s : State) (v : Word) (target : Target) (k : Nat) :
    KeepsPresent k s (s.writeTarget v target) := by
  cases target with
  | zeta i =>
    cases hz : s.zpresent with
    | true =>
      rw [s.writeTarget_zeta_of_zpresent hz]
      exact .refl k s
    | false =>
      rw [s.writeTarget_zeta hz]
      exact .refl k s
  | coeff k' j =>
    cases hp : (s.slot k').present with
    | false =>
      rw [s.writeTarget_coeff_of_absent hp]
      exact .refl k s
    | true =>
      rw [s.writeTarget_coeff hp]
      exact (KeepsPresent.refl k s).setSlot k' hp
  | tags k' =>
    cases hp : (s.slot k').present with
    | false =>
      rw [s.writeTarget_tags_of_absent hp]
      exact .refl k s
    | true =>
      rw [s.writeTarget_tags hp]
      exact (KeepsPresent.refl k s).setSlot k' hp
  | _ => exact .refl k s

theorem step_keepsPresent {s t : State} (h : step s = .next t) (hr : s.port.pending.head? ≠ some .reset) (k : Nat) :
    KeepsPresent k s t := by
  obtain ⟨-, rfl⟩ | ⟨op, rest, hp, hop⟩ := step_cases h
  · exact .refl k t
  obtain ⟨addr, -, rfl⟩ | ⟨addr, v, -, -, hcmd⟩ | ⟨addr, v, -, -, rfl⟩ | ⟨rfl, -⟩ := hop
  · exact .refl k s
  · exact runCommand_keepsPresent hcmd k
  · exact (s.withPending rest).writeTarget_keepsPresent v _ k
  · exact absurd (by rw [hp]; rfl) hr

end Sys2Proof.Machine

namespace Sys2Proof
open Machine

/-- Settles O11: a failing command ends in `complete`, the writes of one that ends OK leave STICKY, and of the
other host writes only one to STATUS touches it. -/
theorem statusStickyDiscipline : Obligations.StatusStickyDiscipline := by
  refine ⟨fun _ _ _ => exec_sticky, fun s v rest hp => step_write (target := .status) hp rfl nofun,
    fun s t a v rest hp ha h => ?_⟩
  rw [step_write hp rfl (mt hostTarget_eq_cmd_iff.mp ha)] at h
  cases h
  exact ⟨(State.writeTarget_keeps ..).2.1,
    fun hs => State.writeTarget_sticky _ v (mt hostTarget_eq_status_iff.mp hs)⟩

/-- Settles O16: the writes of a command are a register, an element, the output run of MATVEC or, for ZGEN only,
the table. -/
theorem commandsKeepControlFields : Obligations.CommandsKeepControlFields :=
  fun _ _ _ h => ⟨exec_sameControl h, exec_table_eq h⟩

/-- Settles O17: every element a command writes is present, and a host write into a slot leaves PRESENT. -/
theorem presentSlotsStayPresent : Obligations.PresentSlotsStayPresent :=
  fun _ _ k h hr => step_keepsPresent h hr k

end Sys2Proof
end

section
/-!
Every coefficient a command writes is centred (R27): the arithmetic functions answer centred values (R120), the
transforms and the rows of MATVEC are made of their answers, and storing keeps a centred value; settles O18.
-/
namespace Sys2Proof

theorem Config.Valid.q_odd {c : Config} (hc : c.Valid) : c.q % 2 = 1 := by
  obtain h | h := hc.prime.eq_two_or_odd
  · exact absurd hc.three_le (by omega)
  · exact h

end Sys2Proof

namespace Sys2Proof.Machine

/-! ## Centred values -/

theorem centred_zero {q : Nat} (hq : q % 2 = 1) : Centred q 0 := by
  constructor <;> simp only [halfOf] <;> omega

/-- `centeredReduce` answers in −H … H for odd Q (R120); so do addMod, subtractMod and multiplyMod (R123 to R125). -/
theorem centeredReduce_centred {q : Nat} (hq : q % 2 = 1) (x : Int) : Centred q (centeredReduce q x) := by
  have lo : 0 ≤ rawResidue q x := Int.emod_nonneg _ (by omega)
  have hi : rawResidue q x < q := Int.emod_lt_of_pos _ (by omega)
  have half : 2 * halfOf q = q - 1 := by
    simp only [halfOf]
    omega
  unfold centeredReduce
  split <;> constructor <;> omega

/-- A centred value fits the word it is stored in (R135). -/
theorem s64_pattern_of_centred {q : Nat} (hq : q < 2 ^ 31) {v : Int} (h : Centred q v) : s64 (pattern v) = v := by
  obtain ⟨lo, hi⟩ := h
  simp only [halfOf] at lo hi
  exact s64_pattern (by omega) (by omega)

/-! ## Lists of coefficients -/

/-- Each coefficient of `b` is that of `a` or centred. -/
def KeptOrCentred (q : Nat) (a b : List Int) : Prop :=
  ∀ j, b.getD j 0 = a.getD j 0 ∨ Centred q (b.getD j 0)

theorem KeptOrCentred.refl (q : Nat) (a : List Int) : KeptOrCentred q a a := fun _ => .inl rfl

theorem KeptOrCentred.trans {q : Nat} {a b c : List Int} (hab : KeptOrCentred q a b) (hbc : KeptOrCentred q b c) :
    KeptOrCentred q a c := by
  intro j
  obtain kept | centred := hbc j
  · exact kept ▸ hab j
  · exact .inr centred

theorem keptOrCentred_of_forall {q : Nat} (hq : q % 2 = 1) (a : List Int) {b : List Int} (h : ∀ v ∈ b, Centred q v) :
    KeptOrCentred q a b := by
  intro j
  right
  by_cases hj : j < b.length
  · rw [List.getD_eq_getElem _ _ hj]
    exact h _ (List.getElem_mem hj)
  · rw [List.getD_eq_default _ _ (Nat.le_of_not_lt hj)]
    exact centred_zero hq

theorem KeptOrCentred.set {q : Nat} {a b : List Int} (h : KeptOrCentred q a b) (i : Nat) {v : Int}
    (hv : Centred q v) : KeptOrCentred q a (b.set i v) := by
  intro j
  by_cases hj : i = j ∧ i < b.length
  · obtain ⟨rfl, hi⟩ := hj
    simp [hi, hv]
  · have same : (b.set i v).getD j 0 = b.getD j 0 := by grind
    rw [same]
    exact h j

theorem keptOrCentred_foldl {α : Type} {q : Nat} {f : List Int → α → List Int}
    (hf : ∀ c x, KeptOrCentred q c (f c x)) (l : List α) (c : List Int) : KeptOrCentred q c (l.foldl f c) :=
  List.foldlRecOn l f (.refl q c) fun _ h _ _ => h.trans (hf _ _)

theorem getD_map_of_zero {α : Type} [Zero α] {f : α → Int} (hf : f 0 = 0) (l : List α) (j : Nat) :
    (l.map f).getD j 0 = f (l.getD j 0) := by
  rw [← List.getD_map l 0 f, hf]

theorem forall_mem_zipWith {P : Int → Prop} {f : Int → Int → Int} (hf : ∀ x y, P (f x y)) (a b : List Int) :
    ∀ v ∈ List.zipWith f a b, P v := by
  intro v hv
  rw [← List.map_uncurry_zip_eq_zipWith, List.mem_map] at hv
  obtain ⟨p, -, rfl⟩ := hv
  exact hf p.1 p.2

/-! ## Results of the commands on elements -/

/-- A butterfly writes a sum and a difference modulo Q (R173). -/
theorem forwardTransform_keptOrCentred {q : Nat} (hq : q % 2 = 1) (logN : Nat) (zetas c : List Int) :
    KeptOrCentred q c (forwardTransform q logN zetas c) :=
  keptOrCentred_foldl (fun _ _ => keptOrCentred_foldl (fun c _ =>
    ((KeptOrCentred.refl q c).set _ (centeredReduce_centred hq _)).set _ (centeredReduce_centred hq _)) _ _) _ _

/-- The last turn of the inverse transform multiplies every coefficient (R176). -/
theorem inverseTransform_centred {q : Nat} (hq : q % 2 = 1) (logN : Nat) (zetas c : List Int) :
    ∀ v ∈ inverseTransform q logN zetas c, Centred q v :=
  List.forall_mem_map.mpr fun _ _ => centeredReduce_centred hq _

/-- A row of MATVEC is a product when there is one column, else ends with a sum (R208). -/
theorem State.rowResult_centred {s : State} (hq : s.cfg.q % 2 = 1) (eb : SlotNo) (i : Nat) :
    ∀ v ∈ s.rowResult eb i, Centred s.cfg.q v :=
  List.foldlRecOn _ _ (motive := fun acc : List Int => ∀ v ∈ acc, Centred s.cfg.q v)
    (forall_mem_zipWith (fun _ _ => centeredReduce_centred hq _) _ _)
    fun _ _ _ _ => forall_mem_zipWith (fun _ _ => centeredReduce_centred hq _) _ _

/-! ## Coefficients of the state -/

/-- Each coefficient of each slot of `t` is that of `s` or centred. -/
def CoeffsKeptOrCentred (s t : State) : Prop :=
  ∀ k, KeptOrCentred s.cfg.q (s.slot k).values (t.slot k).values

theorem CoeffsKeptOrCentred.of_slot_eq {s t : State} (h : ∀ k, t.slot k = s.slot k) : CoeffsKeptOrCentred s t := by
  intro k
  rw [h k]
  exact .refl _ _

/-- Storing a result: a kept coefficient is a word's value already, and a centred one fits a word. -/
theorem KeptOrCentred.stored {q : Nat} (hq : q < 2 ^ 31) {e : Slot} {values : List Int}
    (h : KeptOrCentred q e.values values) : KeptOrCentred q e.values ((values.map pattern).map s64) := by
  intro j
  have stored : ((values.map pattern).map s64).getD j 0 = s64 (pattern (values.getD j 0)) := by
    rw [List.map_map]
    exact getD_map_of_zero (f := s64 ∘ pattern) rfl _ _
  rw [stored]
  obtain kept | centred := h j
  · left
    have word : e.values.getD j 0 = s64 (e.coeffs.getD j 0) := getD_map_of_zero (f := s64) rfl _ _
    rw [kept, word, pattern_s64]
  · right
    rwa [s64_pattern_of_centred hq centred]

theorem CoeffsKeptOrCentred.setElement {s t : State} (h : CoeffsKeptOrCentred s t) (hq : s.cfg.q < 2 ^ 31) {k : Nat}
    (tags : Tags) {values : List Int} (hv : KeptOrCentred s.cfg.q (s.slot k).values values) :
    CoeffsKeptOrCentred s (t.setElement k tags values) := by
  intro k'
  rw [State.setElement, State.slot_setSlot]
  split
  next written =>
    obtain ⟨rfl, -⟩ := written
    exact hv.stored hq
  next => exact h k'

theorem State.matvecResult_coeffsKeptOrCentred {s : State} (hc : s.cfg.Valid) (ed eb : SlotNo) :
    CoeffsKeptOrCentred s (s.matvecResult ed eb) :=
  matvecResult_induction ed eb (.of_slot_eq fun _ => rfl) fun _ _ ht =>
    ht.setElement hc.q_lt _ (keptOrCentred_of_forall hc.q_odd _ (s.rowResult_centred hc.q_odd eb _))

/-- A command that ends with a failing check, or writes one element. -/
theorem conclude_setElement_coeffsKeptOrCentred {s t : State} {failure : Option Failure} {k : Nat} {tags : Tags}
    {values : List Int} (hq : s.cfg.q < 2 ^ 31) (hv : KeptOrCentred s.cfg.q (s.slot k).values values)
    (h : s.conclude failure (s.setElement k tags values) = .next t) : CoeffsKeptOrCentred s t := by
  have start : CoeffsKeptOrCentred s s := .of_slot_eq fun _ => rfl
  obtain ⟨f, -, rfl⟩ | ⟨-, rfl⟩ := State.conclude_cases h
  · exact start
  · exact start.setElement hq tags hv

theorem pointwise_coeffsKeptOrCentred {s t : State} {failure : Option Failure} {f : Int → Int → Int}
    {ed ea eb : SlotNo} (hc : s.cfg.Valid) (hf : ∀ x y, Centred s.cfg.q (f x y))
    (h : s.conclude failure (s.pointwise f ed ea eb) = .next t) : CoeffsKeptOrCentred s t :=
  conclude_setElement_coeffsKeptOrCentred hc.q_lt
    (keptOrCentred_of_forall hc.q_odd _ (forall_mem_zipWith hf _ _)) h

/-- A command without a slot destination, MATVEC apart, writes no slot. -/
theorem exec_slot_of_no_slotDest {i : Instr} {s t : State} (h : exec i s = .next t) (hd : slotDest i = none)
    (hi : ∀ ed eb, i ≠ .matvec ed eb) (k : Nat) : t.slot k = s.slot k := by
  cases exec_ends h with
  | failed => rfl
  | wrote writes =>
    cases writes with
    | register => rfl
    | table => rfl
    | element dest => exact absurd (hd ▸ dest) nofun
    | run ed eb => exact absurd rfl (hi ed eb)

theorem exec_coeffsKeptOrCentred {i : Instr} {s t : State} (hc : s.cfg.Valid) (h : exec i s = .next t) :
    CoeffsKeptOrCentred s t := by
  have hq := hc.q_odd
  cases i with
  | ecreate =>
    refine conclude_setElement_coeffsKeptOrCentred hc.q_lt (keptOrCentred_of_forall hq _ fun v hv => ?_) h
    exact List.eq_of_mem_replicate hv ▸ centred_zero hq
  | ntt => exact conclude_setElement_coeffsKeptOrCentred hc.q_lt (forwardTransform_keptOrCentred hq _ _ _) h
  | intt =>
    exact conclude_setElement_coeffsKeptOrCentred hc.q_lt
      (keptOrCentred_of_forall hq _ (inverseTransform_centred hq _ _ _)) h
  | pwadd => exact pointwise_coeffsKeptOrCentred hc (fun _ _ => centeredReduce_centred hq _) h
  | pwsub => exact pointwise_coeffsKeptOrCentred hc (fun _ _ => centeredReduce_centred hq _) h
  | pwmul => exact pointwise_coeffsKeptOrCentred hc (fun _ _ => centeredReduce_centred hq _) h
  | matvec ed eb =>
    obtain ⟨f, -, rfl⟩ | ⟨-, rfl⟩ := State.conclude_cases h
    · exact .of_slot_eq fun _ => rfl
    · exact s.matvecResult_coeffsKeptOrCentred hc ed eb
  | _ => exact .of_slot_eq (exec_slot_of_no_slotDest h rfl nofun)

end Sys2Proof.Machine

namespace Sys2Proof
open Machine

/-- Settles O18: each of the six commands with a slot destination and MATVEC writes only answers of
`centeredReduce`, or 0. -/
theorem writtenCoefficientsAreCentred : Obligations.WrittenCoefficientsAreCentred :=
  fun _ _ _ hc h => exec_coeffsKeptOrCentred hc h

end Sys2Proof
end

section
/-!
The host space seen by the host: a read leaves the unit as it was (R62), an unmapped address is inert (R64), a
write is read back and changes no other word (R72), and a command changes no word but its own (R71); settles O22,
O49, O52 and O53.
-/
namespace Sys2Proof.Machine

@[simp] theorem hostRead_withPending (s : State) (rest : List HostOp) (a : Addr) :
    hostRead (s.withPending rest) a = hostRead s a := rfl

/-! ## The address map backwards (R61) -/

/-- The word address of a target (R32, R61); an unmapped one has no address of its own and gets 0. -/
def Target.address : Target → Nat
  | .cmd => 0x00
  | .status => 0x01
  | .errinfo => 0x02
  | .cfgQ => 0x03
  | .cfgN => 0x04
  | .cfgLogN => 0x05
  | .cfgNslot => 0x06
  | .zctl => 0x07
  | .mbase => 0x08
  | .mrows => 0x09
  | .mcols => 0x0A
  | .vlen => 0x0B
  | .sreg r => 0x100 + r.toNat
  | .zeta i => 0x1_0000 + i
  | .coeff k j => 0x100_0000 + k * 0x1_0000 + j
  | .tags k => 0x100_0000 + k * 0x1_0000 + 0x8000
  | .unmapped => 0

theorem controlTarget_address {n : Nat} (h : controlTarget n ≠ .unmapped) : (controlTarget n).address = n := by
  unfold controlTarget at h ⊢
  split at h
  case h_13 => exact absurd rfl h
  all_goals rfl

theorem slotTarget_address {c : Config} {k off : Nat} (h : slotTarget c k off ≠ .unmapped) :
    (slotTarget c k off).address = 0x100_0000 + k * 0x1_0000 + off := by
  unfold slotTarget at h ⊢
  split_ifs at h ⊢ with absent tags coeff
  · exact absurd rfl h
  · rw [tags]
    rfl
  · rfl
  · exact absurd rfl h

theorem hostTarget_address {c : Config} {a : Addr} (h : hostTarget c a ≠ .unmapped) :
    (hostTarget c a).address = a.toNat := by
  simp only [hostTarget] at h ⊢
  split_ifs at h ⊢ with control sreg gap table below
  · exact controlTarget_address h
  · simp only [Target.address, BitVec.toNat_ofNat]
    omega
  · exact absurd rfl h
  · simp only [Target.address]
    omega
  · exact absurd rfl h
  · rw [slotTarget_address h]
    omega

/-- No two addresses name the same word. -/
theorem hostTarget_ne_of_ne {c : Config} {a a' : Addr} (h : hostTarget c a ≠ .unmapped) (ha : a' ≠ a) :
    hostTarget c a' ≠ hostTarget c a := by
  intro same
  refine ha (BitVec.eq_of_toNat_eq ?_)
  rw [← hostTarget_address h, ← hostTarget_address (same ▸ h), same]

/-! ## Unmapped addresses (R64) -/

theorem controlTarget_unmapped {n : Nat} (h : 0x0C ≤ n) : controlTarget n = .unmapped := by
  unfold controlTarget
  split
  case h_13 => rfl
  all_goals omega

theorem hostTarget_unmapped_between (c : Config) {a : Addr} (lo : 0x110 ≤ a.toNat) (hi : a.toNat < 0x1_0000) :
    hostTarget c a = .unmapped := by
  have control : ¬ a.toNat < 0x100 := by omega
  have sreg : ¬ a.toNat < 0x110 := by omega
  simp only [hostTarget, control, sreg, hi, if_true, if_false]

theorem hostTarget_unmapped_above_table {c : Config} {a : Addr} (lo : 0x1_0000 + 2 * c.n ≤ a.toNat)
    (hi : a.toNat < 0x100_0000) : hostTarget c a = .unmapped := by
  have control : ¬ a.toNat < 0x100 := by omega
  have sreg : ¬ a.toNat < 0x110 := by omega
  have gap : ¬ a.toNat < 0x1_0000 := by omega
  simp only [hostTarget, control, sreg, gap, lo.not_gt, hi, if_true, if_false]

theorem hostTarget_unmapped_window {c : Config} (hc : c.Valid) {a : Addr} (lo : 0x100_0000 ≤ a.toNat)
    (h : c.nslot ≤ (a.toNat - 0x100_0000) / 0x1_0000 ∨ (c.n ≤ a.toNat % 0x1_0000 ∧ a.toNat % 0x1_0000 ≠ 0x8000)) :
    hostTarget c a = .unmapped := by
  rw [hostTarget_window hc (k := (a.toNat - 0x100_0000) / 0x1_0000) (off := a.toNat % 0x1_0000) (by omega) (by omega)]
  unfold slotTarget
  obtain slot | ⟨coeff, tags⟩ := h
  · rw [if_pos slot]
  · rw [if_neg tags, if_neg coeff.not_gt, ite_self]

/-! ## Reads after host writes (R72) -/

theorem State.readTarget_setSregWord_ne (s : State) {r : RegNo} {target : Target} (h : target ≠ .sreg r) (w : Word) :
    (s.setSregWord r w).readTarget target = s.readTarget target := by
  cases target with
  | sreg r' => exact s.sregWord_setSregWord_ne (fun same => h (congrArg _ same)) w
  | _ => rfl

theorem State.zetaWord_setZetaWord (s : State) {i : Nat} (h : i < s.mem.zeta.length) (w : Word) :
    (s.setZetaWord i w).zetaWord i = w := by
  simp [zetaWord, h]

theorem State.zetaWord_setZetaWord_ne (s : State) {i i' : Nat} (h : i' ≠ i) (w : Word) :
    (s.setZetaWord i w).zetaWord i' = s.zetaWord i' := by
  simp [zetaWord, List.getElem?_set_ne h.symm]

theorem State.readTarget_setZetaWord_ne (s : State) {i : Nat} {target : Target} (h : target ≠ .zeta i) (w : Word) :
    (s.setZetaWord i w).readTarget target = s.readTarget target := by
  cases target with
  | zeta i' => exact s.zetaWord_setZetaWord_ne (fun same => h (congrArg _ same)) w
  | _ => rfl

/-- A write to a coefficient leaves the tags of its slot and its other coefficients. -/
theorem State.readTarget_setCoeff_ne (s : State) {k j : Nat} {target : Target} (h : target ≠ .coeff k j) (w : Word) :
    (s.setSlot k { s.slot k with coeffs := (s.slot k).coeffs.set j w }).readTarget target = s.readTarget target := by
  cases target with
  | coeff k' j' =>
    simp only [readTarget, slot_setSlot]
    split
    next written =>
      obtain ⟨rfl, -⟩ := written
      have other : j ≠ j' := fun same => h (congrArg _ same.symm)
      simp [List.getElem?_set_ne other]
    next => rfl
  | tags k' =>
    simp only [readTarget, slot_setSlot]
    split
    next written =>
      obtain ⟨rfl, -⟩ := written
      rfl
    next => rfl
  | _ => rfl

theorem State.readTarget_setCoeff (s : State) {k j : Nat} (present : (s.slot k).present = true)
    (h : j < (s.slot k).coeffs.length) (w : Word) :
    (s.setSlot k { s.slot k with coeffs := (s.slot k).coeffs.set j w }).readTarget (.coeff k j) = w := by
  simp [readTarget, s.slot_setSlot_same (s.lt_length_of_present present), present, h]

/-- A write that changes the word of its target to `v`, and no other word, is seen so by the host. -/
theorem hostRead_after_write {s t : State} {a : Addr} {v : Word} {rest : List HostOp} {target : Target}
    (hp : s.port.pending = .write a v :: rest) (ht : hostTarget s.cfg a = target) (hcmd : target ≠ .cmd)
    (hmapped : target ≠ .unmapped) (h : step s = .next t)
    (same : ((s.withPending rest).writeTarget v target).readTarget target = v)
    (other : ∀ target', target' ≠ target →
      ((s.withPending rest).writeTarget v target).readTarget target' = s.readTarget target') :
    hostRead t a = v ∧ ∀ a', a' ≠ a → hostRead t a' = hostRead s a' := by
  have hc := step_cfg h
  rw [step_write hp ht hcmd] at h
  cases h
  refine ⟨?_, fun a' ha => ?_⟩
  · rw [hostRead, hc, ht, same]
  · subst ht
    rw [hostRead, hc, other _ (hostTarget_ne_of_ne hmapped ha), hostRead]

/-! ## Reads after commands (R71) -/

theorem CommandWrites.sregWord_eq {s u : State} {i : Instr} (h : CommandWrites s i u) {r : RegNo}
    (hr : scalarDest i ≠ some r) : u.sregWord r = s.sregWord r := by
  cases h with
  | register dest v => exact s.sregWord_setSregWord_ne (fun same => hr (dest.trans (congrArg some same.symm))) _
  | table => rfl
  | element => rfl
  | run ed eb => exact State.matvecResult_induction (P := (·.sregWord r = s.sregWord r)) ed eb rfl fun _ _ ht => ht

/-- MATVEC writes no slot outside its output run (R209). -/
theorem State.matvecResult_slot_ne (s : State) (ed eb : SlotNo) {k : Nat}
    (hk : ∀ i < s.mrows.toNat, k ≠ outputSlot ed i) : (s.matvecResult ed eb).slot k = s.slot k :=
  List.foldlRecOn (motive := fun t : State => t.slot k = s.slot k) (List.range s.mrows.toNat) _ rfl
    fun t ht i hi => (t.slot_setElement_ne (hk i (List.mem_range.mp hi)) _ _).trans ht

/-- A slot whose words the command may not write stays; its TAGS word stands for all of them. -/
theorem CommandWrites.slot_eq {s u : State} {i : Instr} (h : CommandWrites s i u) {k : Nat}
    (hk : ¬ mayWrite i s (.tags k)) : u.slot k = s.slot k := by
  cases h with
  | register => rfl
  | table => rfl
  | element dest => exact s.slot_setElement_ne (fun same => hk (.inl ⟨_, dest, same⟩)) _ _
  | run ed eb => exact s.matvecResult_slot_ne ed eb fun i hi same => hk (.inr ⟨ed, eb, rfl, i, hi, same⟩)

theorem exec_sregWord_eq {i : Instr} {s t : State} (h : exec i s = .next t) {r : RegNo}
    (hr : scalarDest i ≠ some r) : t.sregWord r = s.sregWord r := by
  cases exec_ends h with
  | failed => rfl
  | wrote writes => exact writes.sregWord_eq hr

theorem exec_slot_eq {i : Instr} {s t : State} (h : exec i s = .next t) {k : Nat}
    (hk : ¬ mayWrite i s (.tags k)) : t.slot k = s.slot k := by
  cases exec_ends h with
  | failed => rfl
  | wrote writes => exact writes.slot_eq hk

theorem exec_readTarget_eq {i : Instr} {s t : State} (h : exec i s = .next t) {target : Target}
    (hw : ¬ mayWrite i s target) : t.readTarget target = s.readTarget target := by
  obtain ⟨cfg, mbase, mrows, mcols, vlen, -⟩ := exec_sameControl h
  cases target with
  | cmd => rfl
  | status => exact absurd trivial hw
  | errinfo => exact absurd trivial hw
  | cfgQ => simp only [State.readTarget, cfg]
  | cfgN => simp only [State.readTarget, cfg]
  | cfgLogN => simp only [State.readTarget, cfg]
  | cfgNslot => simp only [State.readTarget, cfg]
  | zctl => simp only [State.readTarget, (exec_table_eq h (not_exists.mp hw)).1]
  | mbase => simp only [State.readTarget, mbase]
  | mrows => simp only [State.readTarget, mrows]
  | mcols => simp only [State.readTarget, mcols]
  | vlen => simp only [State.readTarget, vlen]
  | sreg r => exact exec_sregWord_eq h hw
  | zeta i => simp only [State.readTarget, State.zetaWord, (exec_table_eq h (not_exists.mp hw)).2]
  | coeff k j => simp only [State.readTarget, exec_slot_eq h (k := k) hw]
  | tags k => simp only [State.readTarget, exec_slot_eq h hw]
  | unmapped => rfl

end Sys2Proof.Machine

namespace Sys2Proof
open Machine

/-- Settles O49: `perform` of a read is `answer`, and what is read does not depend on the port. -/
theorem hostReadChangesNothing : Obligations.HostReadChangesNothing := by
  intro s a rest hp
  rw [step_op hp, perform, hostRead_withPending]
  rfl

/-- Settles O53: the address map gives every address of R64 the target `unmapped`. -/
theorem unmappedAddressesAreInert : Obligations.UnmappedAddressesAreInert := by
  intro s a hc ha
  have unmapped : hostTarget s.cfg a = .unmapped := by
    obtain ⟨lo, hi⟩ | ⟨lo, hi⟩ | ⟨lo, hi⟩ | ⟨lo, window⟩ := ha
    · rw [hostTarget_control _ hi, controlTarget_unmapped lo]
    · exact hostTarget_unmapped_between _ lo hi
    · exact hostTarget_unmapped_above_table lo hi
    · exact hostTarget_unmapped_window hc lo window
  exact ⟨hostRead_of_target unmapped, fun v rest hp => step_write hp unmapped nofun⟩

/-- Settles O52: the address names the word written, which lies inside the canonical storage, and no other address
names it. -/
theorem hostReadAfterWrite : Obligations.HostReadAfterWrite := by
  intro s t a v rest hs hp h ha
  obtain ⟨r, ha⟩ | ⟨zabsent, i, hi, ha⟩ | ⟨k, hk, j, hj, present, ha⟩ := ha
  · exact hostRead_after_write hp (hostTarget_sreg _ ha) nofun nofun h (State.sregWord_setSregWord_same ..)
      fun _ ne => State.readTarget_setSregWord_ne _ ne v
  · obtain ⟨-, -, length⟩ := Memory.wf_iff.mp hs.memory
    have write := (s.withPending rest).writeTarget_zeta zabsent v i
    refine hostRead_after_write hp (hostTarget_zeta hi ha) nofun nofun h ?_ fun _ ne => ?_
    · rw [write]
      exact State.zetaWord_setZetaWord _ (length ▸ hi) v
    · rw [write]
      exact State.readTarget_setZetaWord_ne _ ne v
  · have length := s.slot_coeffs_length hs.memory k
    have write := (s.withPending rest).writeTarget_coeff present v j
    refine hostRead_after_write hp (hostTarget_coeff hs.valid hk hj ha) nofun nofun h ?_ fun _ ne => ?_
    · rw [write]
      exact State.readTarget_setCoeff _ present (length ▸ hj) v
    · rw [write]
      exact State.readTarget_setCoeff_ne _ ne v

/-- Settles O22: a command keeps every register, slot, table word and control field but those it may write, and no
command writes the configuration that the address map depends on. -/
theorem hostWordsOutsideDestinationKept : Obligations.HostWordsOutsideDestinationKept := by
  intro i s t a h hw
  rw [hostRead, exec_cfg h, exec_readTarget_eq h hw, hostRead]

end Sys2Proof
end

section
/-!
The encoding of 30_encoding.md: a word is its fields (R91, R92), the decoder and the encoder undo each other, on exactly
the words that a row of the opcode table selects (R93, R96), and a CMD write of any other word only sets STATUS (R97);
settles O1 to O5 and O55.
-/
namespace Sys2Proof

/-! ## Fields and formats as numbers (R91, R92) -/

theorem toNat_extractLsb'_eq_div {n : Nat} (w : BitVec n) (start len : Nat) :
    (w.extractLsb' start len).toNat = w.toNat / 2 ^ start % 2 ^ len := by
  rw [BitVec.extractLsb'_toNat, Nat.shiftRight_eq_div_pow]

theorem opcodeField_toNat (w : CmdWord) : (opcodeField w).toNat = w.toNat / 2 ^ 24 :=
  (toNat_extractLsb'_eq_div w 24 8).trans (Nat.mod_eq_of_lt (by omega))
theorem rdField_toNat (w : CmdWord) : (rdField w).toNat = w.toNat / 2 ^ 20 % 2 ^ 4 := toNat_extractLsb'_eq_div w 20 4
theorem rs1Field_toNat (w : CmdWord) : (rs1Field w).toNat = w.toNat / 2 ^ 16 % 2 ^ 4 := toNat_extractLsb'_eq_div w 16 4
theorem rs2Field_toNat (w : CmdWord) : (rs2Field w).toNat = w.toNat / 2 ^ 12 % 2 ^ 4 := toNat_extractLsb'_eq_div w 12 4
theorem immField_toNat (w : CmdWord) : (immField w).toNat = w.toNat % 2 ^ 12 := BitVec.extractLsb'_toNat 0 12 w
theorem edField_toNat (w : CmdWord) : (edField w).toNat = w.toNat / 2 ^ 16 % 2 ^ 8 := toNat_extractLsb'_eq_div w 16 8
theorem eaField_toNat (w : CmdWord) : (eaField w).toNat = w.toNat / 2 ^ 8 % 2 ^ 8 := toNat_extractLsb'_eq_div w 8 8
theorem ebField_toNat (w : CmdWord) : (ebField w).toNat = w.toNat % 2 ^ 8 := BitVec.extractLsb'_toNat 0 8 w
theorem kField_toNat (w : CmdWord) : (kField w).toNat = w.toNat % 2 ^ 6 := BitVec.extractLsb'_toNat 0 6 w
theorem immAboveK_toNat (w : CmdWord) : (immAboveK w).toNat = w.toNat / 2 ^ 6 % 2 ^ 6 := toNat_extractLsb'_eq_div w 6 6
theorem immAboveNeg_toNat (w : CmdWord) : (immAboveNeg w).toNat = w.toNat / 2 % 2 ^ 11 := toNat_extractLsb'_eq_div w 1 11

theorem toNat_append_eq_add {m n : Nat} (x : BitVec m) (y : BitVec n) : (x ++ y).toNat = x.toNat * 2 ^ n + y.toNat := by
  rw [BitVec.toNat_append, ← Nat.shiftLeft_add_eq_or_of_lt y.isLt, Nat.shiftLeft_eq]

theorem formatS_toNat (op : BitVec 8) (rd rs1 rs2 : RegNo) (imm : BitVec 12) :
    (formatS op rd rs1 rs2 imm).toNat =
      op.toNat * 2 ^ 24 + (rd.toNat * 2 ^ 20 + rs1.toNat * 2 ^ 16 + rs2.toNat * 2 ^ 12 + imm.toNat) := by
  change (op ++ rd ++ rs1 ++ rs2 ++ imm : BitVec (8 + 4 + 4 + 4 + 12)).toNat = _
  simp only [toNat_append_eq_add]
  omega

theorem formatE_toNat (op : BitVec 8) (ed ea eb : SlotNo) :
    (formatE op ed ea eb).toNat = op.toNat * 2 ^ 24 + (ed.toNat * 2 ^ 16 + ea.toNat * 2 ^ 8 + eb.toNat) := by
  change (op ++ ed ++ ea ++ eb : BitVec (8 + 8 + 8 + 8)).toNat = _
  simp only [toNat_append_eq_add]
  omega

/-! ## The immediates of BITREV and ZFIND (R95) -/

theorem k_toNat (k : BitVec 6) : (k.setWidth 12).toNat = k.toNat := BitVec.toNat_setWidth_of_le (by decide)

theorem neg_toNat (neg : Bool) : ((BitVec.ofBool neg).setWidth 12).toNat = neg.toNat :=
  (BitVec.toNat_setWidth_of_le (by decide)).trans (BitVec.toNat_ofBool neg)

theorem immField_eq_k_iff {w : CmdWord} {k : BitVec 6} :
    immField w = k.setWidth 12 ↔ immAboveK w = 0 ∧ kField w = k := by
  simp only [BitVec.toNat_eq, k_toNat, immField_toNat, immAboveK_toNat, kField_toNat, BitVec.ofNat_eq_ofNat,
    BitVec.toNat_ofNat]
  omega

theorem immField_eq_neg_iff {w : CmdWord} {neg : Bool} :
    immField w = (BitVec.ofBool neg).setWidth 12 ↔ immAboveNeg w = 0 ∧ w.getLsbD 0 = neg := by
  have bit : w.getLsbD 0 = decide (w.toNat % 2 = 1) := Nat.testBit_zero w.toNat
  simp only [BitVec.toNat_eq, neg_toNat, immField_toNat, immAboveNeg_toNat, bit, BitVec.ofNat_eq_ofNat,
    BitVec.toNat_ofNat]
  cases neg <;> simp <;> omega

/-! ## A word is its fields (R91, R92) -/

/-- The opcode is compared as a number, as `decodeFields` matches on it. -/
theorem formatS_eq_iff {op : BitVec 8} {rd rs1 rs2 : RegNo} {imm : BitVec 12} {w : CmdWord} :
    formatS op rd rs1 rs2 imm = w ↔
      (opcodeField w).toNat = op.toNat ∧ rdField w = rd ∧ rs1Field w = rs1 ∧ rs2Field w = rs2 ∧ immField w = imm := by
  simp only [BitVec.toNat_eq, formatS_toNat, opcodeField_toNat, rdField_toNat, rs1Field_toNat, rs2Field_toNat,
    immField_toNat]
  omega

theorem formatE_eq_iff {op : BitVec 8} {ed ea eb : SlotNo} {w : CmdWord} :
    formatE op ed ea eb = w ↔
      (opcodeField w).toNat = op.toNat ∧ edField w = ed ∧ eaField w = ea ∧ ebField w = eb := by
  simp only [BitVec.toNat_eq, formatE_toNat, opcodeField_toNat, edField_toNat, eaField_toNat, ebField_toNat]
  omega

/-! ## Decoder and encoder on 32-bit words (R93, R96 steps 2 and 3) -/

theorem decodeFields_encode (i : Instr) : decodeFields (encode i) = .ok i := by
  generalize h : encode i = w
  cases i <;>
    simp only [encode, formatS_eq_iff, formatE_eq_iff, immField_eq_k_iff, immField_eq_neg_iff] at h <;>
    simp [decodeFields, whenZero, h, -BitVec.getLsbD_eq_getElem]

theorem forall_whenZero_eq_ok {b : Bool} {i : Instr} {P : Instr → Prop} :
    (∀ j, whenZero b i = .ok j → P j) ↔ (b = true → P i) := by
  cases b <;> simp [whenZero]

/-- In each branch of the decoder the fields that the command leaves out are 0, so its word has the fields of `w`. -/
theorem encode_of_decodeFields {w : CmdWord} : ∀ i, decodeFields w = .ok i → encode i = w := by
  unfold decodeFields
  split <;>
    simp only [forall_whenZero_eq_ok, Except.ok.injEq, forall_eq', reduceCtorEq, false_imp_iff, implies_true] <;>
    simp +contextual [encode, formatS_eq_iff, formatE_eq_iff, immField_eq_k_iff, immField_eq_neg_iff,
      -BitVec.getLsbD_eq_getElem, *]

theorem decodeFields_eq_ok_iff {w : CmdWord} {i : Instr} : decodeFields w = .ok i ↔ encode i = w :=
  ⟨encode_of_decodeFields i, fun h => h ▸ decodeFields_encode i⟩

/-! ## Decoder and encoder on the word written to CMD (R90, R96) -/

theorem encodeWord_toNat (i : Instr) : (encodeWord i).toNat = (encode i).toNat :=
  BitVec.toNat_setWidth_of_le (by decide)

theorem setWidth_eq_word_iff {w : CmdWord} {v : Word} :
    w.setWidth 64 = v ↔ v.extractLsb' 32 32 = 0 ∧ w = v.extractLsb' 0 32 := by
  simp only [BitVec.toNat_eq, toNat_extractLsb'_eq_div, BitVec.toNat_setWidth_of_le (by decide : 32 ≤ 64),
    BitVec.ofNat_eq_ofNat, BitVec.toNat_ofNat]
  omega

/-- The four steps of R96 in one: the high bits, the opcode and its must-be-zero fields, the slot fields. -/
theorem decode_eq_ok_iff_steps {nslot : Nat} {v : Word} {i : Instr} :
    decode nslot v = .ok i ↔
      v.extractLsb' 32 32 = 0 ∧ decodeFields (v.extractLsb' 0 32) = .ok i ∧ i.wellFormed nslot = true := by
  unfold decode
  split
  case isTrue high => simp_all
  case isFalse high =>
    split
    case h_1 fields => simp [fields]
    case h_2 j fields => grind

theorem decode_eq_ok_iff {nslot : Nat} {v : Word} {i : Instr} :
    decode nslot v = .ok i ↔ encodeWord i = v ∧ i.wellFormed nslot = true := by
  rw [decode_eq_ok_iff_steps, decodeFields_eq_ok_iff, encodeWord, setWidth_eq_word_iff, and_assoc]

/-! ## The rows of the opcode table (R93) -/

/-- A field that the mask covers is, in a word the row selects, what `match` says. -/
theorem field_of_selects {r : OpcodeRow} {w : CmdWord} (h : w &&& r.mask = r.pat) {start len : Nat}
    (covered : r.mask.extractLsb' start len = BitVec.allOnes len) :
    w.extractLsb' start len = r.pat.extractLsb' start len := by
  rw [← h, BitVec.extractLsb'_and, covered, BitVec.and_allOnes]

/-- The command's operands are the fields of the word outside the mask, and the mask covers every other field. -/
theorem exists_encode_of_selects {r : OpcodeRow} (hr : r ∈ opcodeRows) {w : CmdWord} (h : w &&& r.mask = r.pat) :
    ∃ i, encode i = w := by
  have covered : ∀ r ∈ opcodeRows, opcodeField r.mask = BitVec.allOnes 8 := by decide
  have op : (opcodeField w).toNat = (opcodeField r.pat).toNat :=
    congrArg BitVec.toNat (field_of_selects h (covered r hr))
  simp only [opcodeRows, List.mem_cons, List.not_mem_nil, or_false] at hr
  obtain rfl | rfl | rfl | rfl | rfl | rfl | rfl | rfl | rfl | rfl | rfl | rfl | rfl | rfl | rfl | rfl | rfl := hr
  · exact ⟨.cred (rdField w) (rs1Field w),
      formatS_eq_iff.mpr ⟨op, rfl, rfl, field_of_selects h rfl, field_of_selects h rfl⟩⟩
  · exact ⟨.modadd (rdField w) (rs1Field w) (rs2Field w),
      formatS_eq_iff.mpr ⟨op, rfl, rfl, rfl, field_of_selects h rfl⟩⟩
  · exact ⟨.modsub (rdField w) (rs1Field w) (rs2Field w),
      formatS_eq_iff.mpr ⟨op, rfl, rfl, rfl, field_of_selects h rfl⟩⟩
  · exact ⟨.modmul (rdField w) (rs1Field w) (rs2Field w),
      formatS_eq_iff.mpr ⟨op, rfl, rfl, rfl, field_of_selects h rfl⟩⟩
  · exact ⟨.moddiv (rdField w) (rs1Field w) (rs2Field w),
      formatS_eq_iff.mpr ⟨op, rfl, rfl, rfl, field_of_selects h rfl⟩⟩
  · exact ⟨.modexp (rdField w) (rs1Field w) (rs2Field w),
      formatS_eq_iff.mpr ⟨op, rfl, rfl, rfl, field_of_selects h rfl⟩⟩
  · exact ⟨.modinv (rdField w) (rs1Field w),
      formatS_eq_iff.mpr ⟨op, rfl, rfl, field_of_selects h rfl, field_of_selects h rfl⟩⟩
  · exact ⟨.bitrev (rdField w) (rs1Field w) (kField w), formatS_eq_iff.mpr
      ⟨op, rfl, rfl, field_of_selects h rfl, immField_eq_k_iff.mpr ⟨field_of_selects h rfl, rfl⟩⟩⟩
  · exact ⟨.zfind (rdField w) (w.getLsbD 0), formatS_eq_iff.mpr
      ⟨op, rfl, field_of_selects h rfl, field_of_selects h rfl, immField_eq_neg_iff.mpr ⟨field_of_selects h rfl, rfl⟩⟩⟩
  · exact ⟨.zgen (rs1Field w), formatS_eq_iff.mpr
      ⟨op, field_of_selects h rfl, rfl, field_of_selects h rfl, field_of_selects h rfl⟩⟩
  · exact ⟨.ecreate (edField w), formatE_eq_iff.mpr ⟨op, rfl, field_of_selects h rfl, field_of_selects h rfl⟩⟩
  · exact ⟨.ntt (edField w), formatE_eq_iff.mpr ⟨op, rfl, field_of_selects h rfl, field_of_selects h rfl⟩⟩
  · exact ⟨.intt (edField w), formatE_eq_iff.mpr ⟨op, rfl, field_of_selects h rfl, field_of_selects h rfl⟩⟩
  · exact ⟨.pwadd (edField w) (eaField w) (ebField w), formatE_eq_iff.mpr ⟨op, rfl, rfl, rfl⟩⟩
  · exact ⟨.pwsub (edField w) (eaField w) (ebField w), formatE_eq_iff.mpr ⟨op, rfl, rfl, rfl⟩⟩
  · exact ⟨.pwmul (edField w) (eaField w) (ebField w), formatE_eq_iff.mpr ⟨op, rfl, rfl, rfl⟩⟩
  · exact ⟨.matvec (edField w) (ebField w), formatE_eq_iff.mpr ⟨op, rfl, field_of_selects h rfl, rfl⟩⟩

open Laws in
theorem rowSelects_statement (i : Instr) : RowSelects.Statement i :=
  match i with
  | .cred rd rs1 => RowSelects.cred rd rs1
  | .modadd rd rs1 rs2 => RowSelects.modadd rd rs1 rs2
  | .modsub rd rs1 rs2 => RowSelects.modsub rd rs1 rs2
  | .modmul rd rs1 rs2 => RowSelects.modmul rd rs1 rs2
  | .moddiv rd rs1 rs2 => RowSelects.moddiv rd rs1 rs2
  | .modexp rd rs1 rs2 => RowSelects.modexp rd rs1 rs2
  | .modinv rd rs1 => RowSelects.modinv rd rs1
  | .bitrev rd rs1 k => RowSelects.bitrev rd rs1 k
  | .zfind rd neg => RowSelects.zfind rd neg
  | .zgen rs1 => RowSelects.zgen rs1
  | .ecreate ed => RowSelects.ecreate ed
  | .ntt ed => RowSelects.ntt ed
  | .intt ed => RowSelects.intt ed
  | .pwadd ed ea eb => RowSelects.pwadd ed ea eb
  | .pwsub ed ea eb => RowSelects.pwsub ed ea eb
  | .pwmul ed ea eb => RowSelects.pwmul ed ea eb
  | .matvec ed eb => RowSelects.matvec ed eb

/-- The words of the commands are the words that R96 lets past its third step. -/
theorem exists_encodeWord_iff {v : Word} :
    (∃ i, encodeWord i = v) ↔ v.toNat < 2 ^ 32 ∧ ∃ r ∈ opcodeRows, v.setWidth 32 &&& r.mask = r.pat := by
  constructor
  · rintro ⟨i, rfl⟩
    obtain ⟨mem, selects⟩ := rowSelects_statement i
    refine ⟨encodeWord_toNat i ▸ (encode i).isLt, i.row, mem, ?_⟩
    rw [encodeWord, BitVec.setWidth_setWidth_of_le _ (by decide), BitVec.setWidth_eq]
    exact beq_iff_eq.mp selects
  · rintro ⟨small, r, mem, selects⟩
    obtain ⟨i, hi⟩ := exists_encode_of_selects mem selects
    refine ⟨i, BitVec.eq_of_toNat_eq ?_⟩
    rw [encodeWord_toNat, hi, BitVec.toNat_setWidth, Nat.mod_eq_of_lt small]

/-! ## Opcode and slot fields of a command's word (R93, R94) -/

theorem encodeWord_opcode_mem (i : Instr) :
    (encodeWord i).toNat / 2 ^ 24 ∈
      [0x01, 0x02, 0x03, 0x04, 0x05, 0x06, 0x07, 0x10, 0x11, 0x12, 0x20, 0x21, 0x22, 0x30, 0x31, 0x32, 0x40] := by
  rw [encodeWord_toNat, ← opcodeField_toNat]
  generalize h : encode i = w
  cases i <;>
    simp only [encode, formatS_eq_iff, formatE_eq_iff] at h <;>
    simp [h]

/-- The slot fields that R96 checks, named by opcode and place in the word. -/
theorem wellFormed_iff_encodeWord (nslot : Nat) (i : Instr) :
    i.wellFormed nslot = true ↔
      ((encodeWord i).toNat / 2 ^ 24 ∈ [0x20, 0x21, 0x22, 0x30, 0x31, 0x32] →
        (encodeWord i).toNat / 2 ^ 16 % 2 ^ 8 < nslot) ∧
      ((encodeWord i).toNat / 2 ^ 24 ∈ [0x30, 0x31, 0x32] →
        (encodeWord i).toNat / 2 ^ 8 % 2 ^ 8 < nslot ∧ (encodeWord i).toNat % 2 ^ 8 < nslot) := by
  rw [encodeWord_toNat, ← opcodeField_toNat, ← edField_toNat, ← eaField_toNat, ← ebField_toNat]
  generalize h : encode i = w
  cases i <;>
    simp only [encode, formatS_eq_iff, formatE_eq_iff] at h <;>
    simp [Instr.wellFormed, Instr.checkedSlots, slotsExist, h]

end Sys2Proof

namespace Sys2Proof.Machine

/-! ## Illegal words (R97) -/

theorem runCommand_of_error {s : State} {v : Word} {e : Illegal} (h : decode s.cfg.nslot v = .error e) :
    runCommand v s = .next (s.failsWith .illegalCmd 0) := by
  have info : ErrFields.toWord {} = 0 := rfl
  simp only [runCommand, h, State.conclude, s.complete_eq_failsWith (by decide : StatusCode.illegalCmd ≠ .ok), info]

theorem step_withCommand (s : State) (v : Word) : step (s.withCommand v) = runCommand v s := (step_op rfl).trans rfl

end Sys2Proof.Machine

namespace Sys2Proof
open Machine

/-- Settles O1: decoding is encoding read backwards, with the slot fields checked. -/
theorem decodeEncodeRoundTrip : Obligations.DecodeEncodeRoundTrip := fun _ _ wf => decode_eq_ok_iff.mpr ⟨rfl, wf⟩

/-- Settles O2: the other direction of the same equivalence. -/
theorem decodedWordReencodes : Obligations.DecodedWordReencodes := fun _ _ _ => decode_eq_ok_iff.mp

/-- Settles O3: the legal words are the words of well-formed commands; high bits and row say that a word is one of a
command, the slot clauses that the command is well formed. -/
theorem legalWordsAreTheTableRows : Obligations.LegalWordsAreTheTableRows := by
  intro nslot v
  simp only [decode_eq_ok_iff]
  rw [← and_assoc, ← exists_encodeWord_iff, ← exists_and_right]
  refine exists_congr fun i => and_congr_right ?_
  rintro rfl
  exact wellFormed_iff_encodeWord nslot i

/-- Settles O5: a refused word completes with ILLEGAL_CMD, and a word that is not refused is the word of a command,
whose opcode is one of the seventeen. -/
theorem illegalWordsOnlySetStatus : Obligations.IllegalWordsOnlySetStatus := by
  refine ⟨fun s v e h => (step_withCommand s v).trans (runCommand_of_error h), fun nslot v reserved => ?_⟩
  cases h : decode nslot v with
  | error e => exact ⟨e, rfl⟩
  | ok i =>
    obtain ⟨rfl, -⟩ := decode_eq_ok_iff.mp h
    exact absurd (encodeWord_opcode_mem i) reserved

/-- Settles O4: the decoder computes on closed words. -/
theorem sampleWordsDecode : Obligations.SampleWordsDecode := by
  unfold Obligations.SampleWordsDecode
  decide

/-- Settles O55: the word of a command is a format S or format E word, whose number is the sum of its fields. -/
theorem encodedWordsByField : Obligations.EncodedWordsByField := by
  unfold Obligations.EncodedWordsByField
  simp [encodeWord_toNat, encode, formatS_toNat, formatE_toNat, k_toNat, neg_toNat, Nat.add_assoc, -BitVec.toNat_setWidth]

end Sys2Proof
end

section
/-!
The arithmetic of 40_modular_arithmetic.md: centring answers the one centred representative (R120, R121, R126), the
Euclid loop answers the inverse (R129), and what the scalar commands write, report and leave (R122 to R136, R158);
settles O19, O20 and O23 to O29.
-/
namespace Sys2Proof.Machine

/-! ## The centred representative (R120, R121, R126) -/

theorem two_mul_halfOf {q : Nat} (hq : q % 2 = 1) : 2 * halfOf q = q - 1 := by
  simp only [halfOf]
  omega

theorem centeredReduce_modEq (q : Nat) (x : Int) : centeredReduce q x ≡ x [ZMOD q] := by
  unfold centeredReduce
  split
  · exact Int.sub_modulus_modEq_iff.mpr (Int.mod_modEq x q)
  · exact Int.mod_modEq x q

theorem centeredReduce_congr {q : Nat} {x y : Int} (h : x ≡ y [ZMOD q]) : centeredReduce q x = centeredReduce q y := by
  have residue : rawResidue q x = rawResidue q y := h
  simp only [centeredReduce, residue]

theorem centeredReduce_isCentredOf {q : Nat} (hq : q % 2 = 1) (x : Int) : IsCentredOf q x (centeredReduce q x) :=
  ⟨centeredReduce_centred hq x, centeredReduce_modEq q x⟩

/-- Two centred values differ by at most Q − 1, so congruent ones are equal. -/
theorem IsCentredOf.eq_centeredReduce {q : Nat} (hq : q % 2 = 1) {x v : Int} (h : IsCentredOf q x v) :
    v = centeredReduce q x := by
  obtain ⟨⟨lo, hi⟩, congruent⟩ := h
  obtain ⟨lo', hi'⟩ := centeredReduce_centred hq x
  have half := two_mul_halfOf hq
  have dvd : (q : Int) ∣ v - centeredReduce q x := ((centeredReduce_modEq q x).trans congruent.symm).dvd
  have near : |v - centeredReduce q x| < q := abs_lt.mpr ⟨by omega, by omega⟩
  exact sub_eq_zero.mp (Int.eq_zero_of_abs_lt_dvd dvd near)

theorem centeredReduceTrunc_modEq (q : Nat) (x : Int) : centeredReduceTrunc q x ≡ x [ZMOD q] := by
  have trunc : x.tmod q ≡ x [ZMOD q] := (Int.modEq_iff_dvd.mpr (Int.dvd_tmod_sub_self ..)).symm
  unfold centeredReduceTrunc
  split_ifs
  · exact Int.sub_modulus_modEq_iff.mpr trunc
  · exact Int.add_modulus_modEq_iff.mpr trunc
  · exact trunc

theorem centeredReduceTrunc_centred {q : Nat} (hq : q % 2 = 1) (x : Int) : Centred q (centeredReduceTrunc q x) := by
  have lo : -(q : Int) < x.tmod q := Int.lt_tmod_of_pos x (by omega)
  have hi : x.tmod q < q := Int.tmod_lt_of_pos x (by omega)
  have half := two_mul_halfOf hq
  unfold centeredReduceTrunc
  split_ifs <;> constructor <;> omega

theorem Centred.abs_mul_le {q : Nat} {u v : Int} (hu : Centred q u) (hv : Centred q v) : |u * v| ≤ halfOf q ^ 2 := by
  rw [abs_mul, sq]
  have bound : |u| ≤ halfOf q := abs_le.mpr hu
  exact mul_le_mul bound (abs_le.mpr hv) (abs_nonneg v) ((abs_nonneg u).trans bound)

theorem halfOf_sq_lt {q : Nat} (odd : q % 2 = 1) (hq : q < 2 ^ 31) : halfOf q ^ 2 < 2 ^ 60 := by
  have half := two_mul_halfOf odd
  calc halfOf q ^ 2 < (2 ^ 30) ^ 2 := pow_lt_pow_left₀ (by omega) (by omega) (by decide)
    _ = 2 ^ 60 := by norm_num

/-! ## Powers and inverses (R127, R129, R131) -/

theorem expMod_of_nonpos (q : Nat) (base : Int) {e : Int} (h : e ≤ 0) : expMod q base e = 1 := by
  rw [expMod, Int.toNat_of_nonpos h, expModFuel]

theorem expMod_residue {q : Nat} (hq : 1 < q) (base e : Int) : 0 ≤ expMod q base e ∧ expMod q base e < q := by
  obtain nonpos | pos := le_or_gt e 0
  · rw [expMod_of_nonpos q base nonpos]
    omega
  · rw [expMod_of_pos q base pos]
    exact ⟨Int.emod_nonneg _ (by omega), Int.emod_lt_of_pos _ (by omega)⟩

/-- The loop of R129 keeps t · a ≡ r and t′ · a ≡ r′ and the divisor gcd(r, r′); r′ falls at every turn. -/
theorem euclidFuel_mul_modEq {q : Nat} {a : Int} {fuel : Nat} {t t' r r' : Int} (hr : 0 ≤ r) (hr' : 0 ≤ r')
    (enough : r' < fuel) (ht : t * a ≡ r [ZMOD q]) (ht' : t' * a ≡ r' [ZMOD q]) :
    euclidFuel fuel t t' r r' * a ≡ (Int.gcd r r' : Int) [ZMOD q] := by
  induction fuel generalizing t t' r r' with
  | zero => omega
  | succ fuel ih =>
    unfold euclidFuel
    split
    case isTrue done => rwa [done, Int.gcd_zero_right, Int.natAbs_of_nonneg hr]
    case isFalse more =>
      have pos : 0 < r' := by omega
      have rem : r - r / r' * r' = r % r' := by rw [Int.emod_def, mul_comm]
      have falls : r % r' < r' := Int.emod_lt_of_pos r pos
      have invariant : (t - r / r' * t') * a ≡ r % r' [ZMOD q] := by
        rw [← rem, sub_mul, mul_assoc]
        exact ht.sub (ht'.mul_left _)
      rw [rem, ← Int.gcd_emod r r', Int.gcd_comm]
      exact ih hr' (Int.emod_nonneg r more) (by omega) ht' invariant

theorem modInverse_of_residue_eq_zero {q : Nat} {a : Int} (h : a % (q : Int) = 0) : modInverse q a = none := if_pos h

/-- The loop runs on (Q, a mod Q), whose greatest common divisor is 1 for a prime Q. -/
theorem exists_modInverse_eq_some {q : Nat} (prime : q.Prime) (odd : q % 2 = 1) {a : Int} (h : a % (q : Int) ≠ 0) :
    ∃ v, modInverse q a = some v ∧ Centred q v ∧ v * a ≡ 1 [ZMOD q] := by
  refine ⟨_, if_neg h, centeredReduce_centred odd _, ((centeredReduce_modEq q _).mul_right a).trans ?_⟩
  have pos : (0 : Int) < q := Int.natCast_pos.mpr prime.pos
  have lt : a % (q : Int) < q := Int.emod_lt_of_pos a pos
  have coprime : Int.gcd q (a % (q : Int)) = 1 := by
    rw [Int.gcd_comm, Int.gcd_emod, Int.gcd_comm]
    exact Int.isCoprime_iff_gcd_eq_one.mp <|
      ((Nat.prime_iff_prime_int.mp prime).coprime_iff_not_dvd).mpr fun dvd => h (Int.emod_eq_zero_of_dvd dvd)
  have start : 0 * a ≡ q [ZMOD q] := by
    rw [zero_mul]
    exact (Int.modEq_zero_iff_dvd.mpr dvd_rfl).symm
  have start' : 1 * a ≡ a % (q : Int) [ZMOD q] := by
    rw [one_mul]
    exact (Int.mod_modEq a q).symm
  have bezout := euclidFuel_mul_modEq (fuel := q + 1) pos.le (Int.emod_nonneg a pos.ne') (by omega) start start'
  rwa [coprime] at bezout

theorem ne_zero_of_mul_modEq_one {q : Nat} (prime : q.Prime) {v a : Int} (h : v * a ≡ 1 [ZMOD q]) : v ≠ 0 := by
  rintro rfl
  rw [zero_mul] at h
  exact (Nat.prime_iff_prime_int.mp prime).not_dvd_one (Int.modEq_zero_iff_dvd.mp h.symm)

theorem divideMod_of_residue_eq_zero {q : Nat} (a : Int) {b : Int} (h : b % (q : Int) = 0) :
    divideMod q a b = none := by
  rw [divideMod, modInverse_of_residue_eq_zero h, Option.map_none]

theorem exists_divideMod_eq_some {q : Nat} (prime : q.Prime) (odd : q % 2 = 1) (a : Int) {b : Int}
    (h : b % (q : Int) ≠ 0) : ∃ c, divideMod q a b = some c ∧ Centred q c ∧ c * b ≡ a [ZMOD q] := by
  obtain ⟨v, found, -, inverse⟩ := exists_modInverse_eq_some prime odd h
  refine ⟨multiplyMod q a v, by rw [divideMod, found, Option.map_some], centeredReduce_centred odd _, ?_⟩
  calc multiplyMod q a v * b ≡ a * v * b [ZMOD q] := (centeredReduce_modEq q _).mul_right b
    _ = a * (v * b) := mul_assoc ..
    _ ≡ a * 1 [ZMOD q] := inverse.mul_left a
    _ = a := mul_one a

/-! ## What the commands answer (R122 to R132) -/

theorem State.scalarResult_eq_endsOk (s : State) (rd : RegNo) (v : Int) :
    s.scalarResult rd v = .next (s.setSreg rd v).endsOk := by
  rw [scalarResult_eq, completeOk_eq_endsOk]

theorem State.inverseResult_of_some (s : State) (rd r : RegNo) {x : Option Int} {v : Int} (h : x = some v) :
    s.inverseResult rd r x = .next (s.setSreg rd v).endsOk := h ▸ s.scalarResult_eq_endsOk rd v

theorem scalarInfo_toWord (r : RegNo) : (scalarInfo r).toWord = errWord 7 r.toNat 0 0 0 0 := by
  revert r
  decide

theorem State.inverseResult_of_none (s : State) (rd r : RegNo) {x : Option Int} (h : x = none) :
    s.inverseResult rd r x = .next (s.failsWith .noInverse (errWord 7 r.toNat 0 0 0 0)) := by
  rw [h, ← scalarInfo_toWord]
  exact congrArg _ (s.complete_eq_failsWith (code := .noInverse) (by decide) _)

/-- A centred value is read back from the register it is stored in (R135). -/
theorem State.sreg_setSreg_of_centred (s : State) (rd : RegNo) {q : Nat} (hq : q < 2 ^ 31) {v : Int}
    (h : Centred q v) : (s.setSreg rd v).sreg rd = v := by
  rw [sreg, setSreg, sregWord_setSregWord_same, s64_pattern_of_centred hq h]

/-- A command that writes the centred representative of `x`. -/
theorem State.exists_scalarResult_centeredReduce {s : State} (hc : s.cfg.Valid) (rd : RegNo) (x : Int) :
    ∃ v, IsCentredOf s.cfg.q x v ∧
      s.scalarResult rd (centeredReduce s.cfg.q x) = .next (s.setSreg rd v).endsOk ∧ (s.setSreg rd v).sreg rd = v :=
  ⟨_, centeredReduce_isCentredOf hc.q_odd x, s.scalarResult_eq_endsOk rd _,
    s.sreg_setSreg_of_centred rd hc.q_lt (centeredReduce_centred hc.q_odd x)⟩

/-! ## What a scalar command leaves (R133, R158) -/

theorem slotDest_of_scalarDest {i : Instr} {rd : RegNo} (h : scalarDest i = some rd) : slotDest i = none := by
  cases i <;> simp_all [scalarDest, slotDest]

/-- A command with a scalar destination writes that register and nothing else. -/
theorem CommandWrites.eq_setSreg {s u : State} {i : Instr} (h : CommandWrites s i u) {rd : RegNo}
    (hd : scalarDest i = some rd) : ∃ v, u = s.setSreg rd v := by
  cases h with
  | register dest v => exact ⟨v, by rw [Option.some.inj (dest.symm.trans hd)]⟩
  | table => exact nomatch hd
  | element dest => exact nomatch (slotDest_of_scalarDest hd).symm.trans dest
  | run => exact nomatch hd

theorem exec_mem_of_scalarDest {i : Instr} {rd : RegNo} {s t : State} (hd : scalarDest i = some rd)
    (h : exec i s = .next t) : t.mem = s.mem := by
  cases exec_ends h with
  | failed => rfl
  | wrote writes =>
    obtain ⟨v, rfl⟩ := writes.eq_setSreg hd
    rfl

/-! ## What a scalar command depends on (R136) -/

/-- Two states report the same code and ERRINFO and, after an OK completion, hold the same word in S[rd]. -/
def SameOutcome (rd : RegNo) (t₁ t₂ : State) : Prop :=
  t₁.code = t₂.code ∧ t₁.errinfo = t₂.errinfo ∧ (t₁.code = .ok → t₁.sregWord rd = t₂.sregWord rd)

section
variable {s₁ s₂ t₁ t₂ : State} {rd : RegNo}

theorem failed_sameOutcome {code : StatusCode} (ne_ok : code ≠ .ok) {info : ErrFields}
    (h₁ : s₁.conclude (some ⟨code, info⟩) s₁ = .next t₁) (h₂ : s₂.conclude (some ⟨code, info⟩) s₂ = .next t₂) :
    SameOutcome rd t₁ t₂ := by
  cases h₁
  cases h₂
  exact ⟨rfl, rfl, fun ok => absurd ok ne_ok⟩

theorem scalarResult_sameOutcome {v₁ v₂ : Int} (hv : v₁ = v₂) (h₁ : s₁.scalarResult rd v₁ = .next t₁)
    (h₂ : s₂.scalarResult rd v₂ = .next t₂) : SameOutcome rd t₁ t₂ := by
  subst hv
  cases h₁
  cases h₂
  exact ⟨rfl, rfl, fun _ => (s₁.sregWord_setSregWord_same rd _).trans (s₂.sregWord_setSregWord_same rd _).symm⟩

theorem inverseResult_sameOutcome {r : RegNo} {x₁ x₂ : Option Int} (hx : x₁ = x₂)
    (h₁ : s₁.inverseResult rd r x₁ = .next t₁) (h₂ : s₂.inverseResult rd r x₂ = .next t₂) : SameOutcome rd t₁ t₂ := by
  subst hx
  cases x₁ with
  | none => exact failed_sameOutcome (by decide) h₁ h₂
  | some v => exact scalarResult_sameOutcome rfl h₁ h₂

theorem execZfind_sameOutcome {neg : Bool} (hc : s₁.cfg = s₂.cfg) (h₁ : execZfind rd neg s₁ = .next t₁)
    (h₂ : execZfind rd neg s₂ = .next t₂) : SameOutcome rd t₁ t₂ := by
  rw [execZfind, hc] at h₁
  rw [execZfind] at h₂
  generalize zetaFinder s₂.cfg neg = root at h₁ h₂
  cases root with
  | none => exact failed_sameOutcome (by decide) h₁ h₂
  | some z => exact scalarResult_sameOutcome rfl h₁ h₂

/-- Nine commands have a scalar destination; `cases hd` drops the others. -/
theorem exec_sameOutcome {i : Instr} (hd : scalarDest i = some rd) (hc : s₁.cfg = s₂.cfg)
    (hs : ∀ r ∈ scalarSources i, s₁.sregWord r = s₂.sregWord r) (h₁ : exec i s₁ = .next t₁)
    (h₂ : exec i s₂ = .next t₂) : SameOutcome rd t₁ t₂ := by
  cases i <;> simp only [scalarSources, List.forall_mem_cons] at hs <;> cases hd
  case cred | modadd | modsub | modmul | modexp =>
    exact scalarResult_sameOutcome (by simp only [State.sreg, hc, hs]) h₁ h₂
  case moddiv | modinv => exact inverseResult_sameOutcome (by simp only [State.sreg, hc, hs]) h₁ h₂
  case bitrev => exact scalarResult_sameOutcome (by simp only [hs]) h₁ h₂
  case zfind => exact execZfind_sameOutcome hc h₁ h₂

end

end Sys2Proof.Machine

namespace Sys2Proof
open Machine

/-- Settles O19: of the writes of a command, only that of a register belongs to one with a scalar destination. -/
theorem scalarCommandsFrame : Obligations.ScalarCommandsFrame := by
  intro i rd s t hd h
  have not_zgen : ∀ rs1, i ≠ .zgen rs1 := by
    rintro rs1 rfl
    exact nomatch hd
  have other : ∀ r, r ≠ rd → scalarDest i ≠ some r := fun r ne same => ne (Option.some.inj (same.symm.trans hd))
  exact ⟨exec_sameControl h, fun r ne => exec_sregWord_eq h (other r ne), exec_mem_of_scalarDest hd h,
    (exec_table_eq h not_zgen).1⟩

/-- Settles O20: each scalar command is a function of the configuration and its sources, then a register write. -/
theorem scalarResultsDependOnSources : Obligations.ScalarResultsDependOnSources :=
  fun _ _ _ _ _ _ hd hc hs h₁ h₂ => exec_sameOutcome hd hc hs h₁ h₂

/-- Settles O23: congruent centred values are equal, and centring depends on the residue only. -/
theorem centredRepresentativeIsUnique : Obligations.CentredRepresentativeIsUnique :=
  fun q x hq => ⟨centeredReduce_isCentredOf hq x, fun _ h => h.eq_centeredReduce hq,
    centeredReduce_congr (centeredReduce_modEq q x)⟩

/-- Settles O24: the truncated form is centred and congruent too, and there is only one such value. -/
theorem truncatedCentringAgrees : Obligations.TruncatedCentringAgrees :=
  fun q x hq => IsCentredOf.eq_centeredReduce hq ⟨centeredReduceTrunc_centred hq x, centeredReduceTrunc_modEq q x⟩

/-- Settles O25: the reduced operands are congruent to the operands, and |a · b| = |a| · |b| ≤ H · H. -/
theorem reducedOperandsAgree : Obligations.ReducedOperandsAgree := by
  intro q a b hq
  have ha := (centeredReduce_modEq q a).symm
  have hb := (centeredReduce_modEq q b).symm
  exact ⟨centeredReduce_congr (ha.mul hb), centeredReduce_congr (ha.add hb), centeredReduce_congr (ha.sub hb),
    fun lt => ⟨(centeredReduce_centred hq a).abs_mul_le (centeredReduce_centred hq b), halfOf_sq_lt hq lt⟩⟩

/-- Settles O26: the four commands store `centeredReduce` of their exact value. -/
theorem centredArithmeticResults : Obligations.CentredArithmeticResults := by
  intro s rd rs1 rs2 hc
  have result := State.exists_scalarResult_centeredReduce hc rd
  simp only [List.forall_mem_cons]
  exact ⟨result _, result _, result _, result _, nofun⟩

/-- Settles O27: the recursion of R127 gives 1 or the raw power, and a residue fits a word. -/
theorem modexpResult : Obligations.ModexpResult := by
  intro s rd rs1 rs2 hc
  obtain ⟨nonneg, lt⟩ := expMod_residue hc.prime.one_lt (s.sreg rs1) (s.sreg rs2)
  have hq := hc.q_lt
  exact ⟨_, expMod_of_nonpos _ _, expMod_of_pos _ _, s.scalarResult_eq_endsOk rd _,
    s.sreg_setSreg_same rd (by omega) (by omega)⟩

/-- Settles O28: the Euclid loop answers an inverse of a nonzero residue, and 0 is no inverse. -/
theorem modinvResult : Obligations.ModinvResult := by
  refine fun s rd rs1 hc => ⟨fun unit => ?_,
    fun zero => s.inverseResult_of_none rd rs1 (modInverse_of_residue_eq_zero zero)⟩
  obtain ⟨v, found, centred, inverse⟩ := exists_modInverse_eq_some hc.prime hc.q_odd unit
  exact ⟨v, centred, inverse, ne_zero_of_mul_modEq_one hc.prime inverse, s.inverseResult_of_some rd rs1 found,
    s.sreg_setSreg_of_centred rd hc.q_lt centred⟩

/-- Settles O29: the quotient is the dividend times the divisor's inverse, and exists when that does. -/
theorem moddivResult : Obligations.ModdivResult := by
  refine fun s rd rs1 rs2 hc => ⟨fun unit => ?_,
    fun zero => s.inverseResult_of_none rd rs2 (divideMod_of_residue_eq_zero _ zero)⟩
  obtain ⟨v, found, centred, quotient⟩ := exists_divideMod_eq_some hc.prime hc.q_odd (s.sreg rs1) unit
  exact ⟨v, centred, quotient, s.inverseResult_of_some rd rs2 found, s.sreg_setSreg_of_centred rd hc.q_lt centred⟩

end Sys2Proof
end

section
/-!
Bit reversal and the zeta table: `bitReverse` bit by bit and as an involution (R150), what BITREV answers (R151), and
the table ZGEN builds, whose upper half repeats the lower half (R154 to R156); settles O30, O31, O33 and O34.
-/
namespace Sys2Proof.Machine

/-! ## Bit reversal (R150) -/

/-- One more bit to reverse doubles the weight of the bits before it and enters at the bottom. -/
theorem bitReverse_succ (t k : Nat) : bitReverse t (k + 1) = Nat.bit (t.testBit k) (bitReverse t k) := by
  have doubled : ∀ i ∈ List.range k,
      (t.testBit i).toNat * 2 ^ (k - i) = 2 * ((t.testBit i).toNat * 2 ^ (k - 1 - i)) := by
    intro i hi
    have exponent : k - i = k - 1 - i + 1 := by
      have lt := List.mem_range.mp hi
      omega
    rw [exponent, pow_succ]
    ring
  simp [bitReverse, List.range_succ, List.map_congr_left doubled, List.sum_map_mul_left, Nat.bit_val]

theorem testBit_bitReverse (t k i : Nat) :
    (bitReverse t k).testBit i = (decide (i < k) && t.testBit (k - 1 - i)) := by
  induction k generalizing i with
  | zero => simp [bitReverse]
  | succ k ih =>
    rw [bitReverse_succ]
    cases i with
    | zero => simp
    | succ i =>
      have mirrored : k - (i + 1) = k - 1 - i := by omega
      simp [Nat.testBit_bit_succ, ih, mirrored]

theorem bitReverse_lt (t k : Nat) : bitReverse t k < 2 ^ k :=
  Nat.lt_pow_two_of_testBit _ fun i hi => by simp [testBit_bitReverse, hi.not_gt]

theorem bitReverse_mod_two_pow (t k : Nat) : bitReverse (t % 2 ^ k) k = bitReverse t k := by
  refine Nat.eq_of_testBit_eq fun i => ?_
  simp only [testBit_bitReverse, Nat.testBit_mod_two_pow]
  by_cases hi : i < k
  · have lt : k - 1 - i < k := by omega
    simp [lt]
  · simp [hi]

@[simp] theorem bitReverse_zero_left (k : Nat) : bitReverse 0 k = 0 :=
  Nat.eq_of_testBit_eq fun i => by simp [testBit_bitReverse]

theorem bitReverse_bitReverse {t k : Nat} (ht : t < 2 ^ k) : bitReverse (bitReverse t k) k = t := by
  refine Nat.eq_of_testBit_eq fun i => ?_
  rw [testBit_bitReverse, testBit_bitReverse]
  by_cases hi : i < k
  · have lt : k - 1 - i < k := by omega
    have back : k - 1 - (k - 1 - i) = i := by omega
    simp [hi, lt, back]
  · have above : t.testBit i = false :=
      Nat.testBit_lt_two_pow (ht.trans_le (Nat.pow_le_pow_right (by decide) (Nat.le_of_not_lt hi)))
    simp [hi, above]

/-- `bitReverse` to LOGN bits discards bit LOGN, the one that adds N (R156). -/
theorem bitReverse_n_add (c : Config) (i : Nat) : bitReverse (c.n + i) c.logN = bitReverse i c.logN := by
  rw [← bitReverse_mod_two_pow, Config.n, Nat.add_mod_left, bitReverse_mod_two_pow]

theorem bitReverse_bijOn (k : Nat) : Set.BijOn (bitReverse · k) (Set.Iio (2 ^ k)) (Set.Iio (2 ^ k)) :=
  Set.InvOn.bijOn ⟨fun _ => bitReverse_bitReverse, fun _ => bitReverse_bitReverse⟩
    (fun t _ => bitReverse_lt t k) (fun t _ => bitReverse_lt t k)

/-! ## The entries of the table (R154) -/

/-- R154 sets T[0] apart, but its exponent is 0 and gives 1 too. -/
theorem zetaEntry_eq_expMod (c : Config) (zeta : Int) (i : Nat) :
    zetaEntry c zeta i = expMod c.q zeta (bitReverse i c.logN) := by
  unfold zetaEntry
  split
  case isTrue zero => rw [zero, bitReverse_zero_left, Nat.cast_zero, expMod_of_nonpos _ _ le_rfl]
  case isFalse => rfl

theorem zetaEntry_zero (c : Config) (zeta : Int) : zetaEntry c zeta 0 = 1 := rfl

theorem zetaEntry_n_add (c : Config) (zeta : Int) (i : Nat) : zetaEntry c zeta (c.n + i) = zetaEntry c zeta i := by
  rw [zetaEntry_eq_expMod, zetaEntry_eq_expMod, bitReverse_n_add]

theorem expMod_natCast {q : Nat} (hq : 1 < q) (base : Int) (e : Nat) : expMod q base e = base ^ e % (q : Int) := by
  cases e with
  | zero => rw [Nat.cast_zero, expMod_of_nonpos _ _ le_rfl, pow_zero, Int.emod_eq_of_lt (by decide) (by omega)]
  | succ e => rw [expMod_of_pos _ _ (by omega), Int.toNat_natCast]

/-- A raw residue modulo Q is read back from the word it is stored in (R135). -/
theorem s64_pattern_zetaEntry {c : Config} (hc : c.Valid) (zeta : Int) (i : Nat) :
    s64 (pattern (zetaEntry c zeta i)) = zeta ^ bitReverse i c.logN % (c.q : Int) := by
  have hq := hc.q_lt
  obtain ⟨nonneg, lt⟩ := expMod_residue hc.prime.one_lt zeta (bitReverse i c.logN)
  rw [zetaEntry_eq_expMod, s64_pattern (by omega) (by omega), expMod_natCast hc.prime.one_lt]

/-! ## ZGEN (R155) -/

theorem exec_zgen (rs1 : RegNo) (s : State) :
    exec (.zgen rs1) s = .next ((s.setZetas (genZetasTable s.cfg (s.sreg rs1))).setZpresent true).completeOk :=
  State.conclude_none s _

theorem zetaWord_of_exec_zgen {s t : State} {rs1 : RegNo} (h : exec (.zgen rs1) s = .next t) {i : Nat}
    (hi : i < 2 * s.cfg.n) : t.zetaWord i = pattern (zetaEntry s.cfg (s.sreg rs1) i) := by
  rw [exec_zgen] at h
  cases h
  simp [State.zetaWord, genZetasTable, hi]

/-- R154 sets Z[0] to 1 without reducing it, so no condition on Q is needed. -/
theorem s64_zetaWord_zero_of_exec_zgen {s t : State} {rs1 : RegNo} (h : exec (.zgen rs1) s = .next t) :
    s64 (t.zetaWord 0) = 1 := by
  have pos : 0 < s.cfg.n := Nat.two_pow_pos _
  rw [zetaWord_of_exec_zgen h (by omega), zetaEntry_zero]
  decide

theorem zetaWord_n_add_of_exec_zgen {s t : State} {rs1 : RegNo} (h : exec (.zgen rs1) s = .next t) {i : Nat}
    (hi : i < s.cfg.n) : t.zetaWord (s.cfg.n + i) = t.zetaWord i := by
  rw [zetaWord_of_exec_zgen h (by omega), zetaWord_of_exec_zgen h (by omega), zetaEntry_n_add]

end Sys2Proof.Machine

namespace Sys2Proof
open Machine

/-- Settles O30: the result has at most 63 bits, so the register holds it. -/
theorem bitrevResult : Obligations.BitrevResult := by
  intro s rd rs1 k
  have lt : bitReverse (s.sregWord rs1).toNat k.toNat < 2 ^ 63 :=
    (bitReverse_lt ..).trans_le (Nat.pow_le_pow_right (by decide) (by omega))
  exact ⟨_, fun i => testBit_bitReverse .., s.scalarResult_eq_endsOk rd _,
    s.sreg_setSreg_same rd (by omega) (by omega)⟩

/-- Settles O31: all four parts follow from the bits of `bitReverse`. -/
theorem bitReverseIsInvolutive : Obligations.BitReverseIsInvolutive :=
  fun t k => ⟨testBit_bitReverse t k, bitReverse_lt t k, (bitReverse_mod_two_pow t k).symm, bitReverse_bitReverse⟩

/-- Settles O33: every entry is the raw power its exponent gives, and a residue fits a word. -/
theorem zgenBuildsTheTable : Obligations.ZgenBuildsTheTable := by
  intro s rs1 hc
  have h := exec_zgen rs1 s
  refine ⟨_, h, by simp, s64_zetaWord_zero_of_exec_zgen h, fun i hi => ?_, rfl, rfl, rfl, exec_sameControl h,
    ⟨rfl, State.completeOk_errinfo _, State.completeOk_sticky _⟩⟩
  rw [zetaWord_of_exec_zgen h hi, s64_pattern_zetaEntry hc]

/-- Settles O34: entry N + i has the exponent of entry i, and bit reversal is its own inverse below N. -/
theorem zgenUpperHalfRepeats : Obligations.ZgenUpperHalfRepeats := by
  refine ⟨fun s t rs1 h => ⟨?_, fun i hi => zetaWord_n_add_of_exec_zgen h hi⟩,
    fun c i _ => bitReverse_n_add c i, fun c => bitReverse_bijOn c.logN⟩
  exact (congrArg s64 (zetaWord_n_add_of_exec_zgen h (Nat.two_pow_pos _))).trans (s64_zetaWord_zero_of_exec_zgen h)

end Sys2Proof
end

section
/-!
The two iteration orders of 42_ntt_engine.md pass by pass (R171, R172), the table indices they draw, and that the
transforms use a drawn word modulo Q only (R178); settles O38 to O40.
-/
namespace Sys2Proof.Machine

/-! ## One pass in closed form (R171, R172) -/

theorem forwardPass_map_range (len : Nat) (start : Nat → Nat) (count k : Nat) :
    forwardPass len ((List.range count).map start) k =
      (List.range count).map fun b => { len := len, start := start b, k := k + 1 + b } := by
  induction count generalizing start k with
  | zero => rfl
  | succ count ih =>
    rw [List.range_succ_eq_map, List.map_cons, List.map_map, forwardPass, ih, List.map_cons, List.map_map]
    refine congrArg (List.cons _) (List.map_congr_left fun b _ => ?_)
    have cursor : k + 1 + 1 + b = k + 1 + (b + 1) := by omega
    rw [cursor, Function.comp_apply, Function.comp_apply]

theorem inversePass_map_range (len : Nat) (start : Nat → Nat) (count k : Nat) :
    inversePass len ((List.range count).map start) k =
      (List.range count).map fun b => { len := len, start := start b, k := k - 1 - b } := by
  induction count generalizing start k with
  | zero => rfl
  | succ count ih =>
    rw [List.range_succ_eq_map, List.map_cons, List.map_map, inversePass, ih, List.map_cons, List.map_map]
    refine congrArg (List.cons _) (List.map_congr_left fun b _ => ?_)
    have cursor : k - 1 - 1 - b = k - 1 - (b + 1) := by omega
    rw [cursor, Function.comp_apply, Function.comp_apply]

/-- Forward pass `p` (R171): 2^p blocks of half length N / 2^(p+1), block b drawing 2^p + b. -/
def forwardPassBlocks (logN p : Nat) : List Block :=
  (List.range (2 ^ p)).map fun b =>
    { len := 2 ^ logN / 2 ^ (p + 1), start := 2 * (2 ^ logN / 2 ^ (p + 1)) * b, k := 2 ^ p + b }

/-- The inverse pass of half length 2^p (R172): N / (2·2^p) blocks, block b drawing N / 2^p − 1 − b. -/
def inversePassBlocks (logN p : Nat) : List Block :=
  (List.range (2 ^ logN / (2 * 2 ^ p))).map fun b =>
    { len := 2 ^ p, start := 2 * 2 ^ p * b, k := 2 ^ logN / 2 ^ p - 1 - b }

/-- Forward pass `p` when `l` passes are to come: the half length is 2^l. -/
theorem forwardPassBlocks_eq (p l : Nat) :
    forwardPassBlocks (p + (l + 1)) p =
      (List.range (2 ^ p)).map fun b => { len := 2 ^ l, start := 2 * 2 ^ l * b, k := 2 ^ p + b } := by
  have len : 2 ^ (p + (l + 1)) / 2 ^ (p + 1) = 2 ^ l := by
    rw [Nat.pow_div (by omega) (by decide)]
    congr 1
    omega
  rw [forwardPassBlocks, len]

/-- The inverse pass of half length 2^p when `l` passes are to come: it has 2^l blocks. -/
theorem inversePassBlocks_eq (p l : Nat) :
    inversePassBlocks (p + (l + 1)) p =
      (List.range (2 ^ l)).map fun b => { len := 2 ^ p, start := 2 * 2 ^ p * b, k := 2 ^ (l + 1) - 1 - b } := by
  have drawn : 2 ^ (p + (l + 1)) / 2 ^ p = 2 ^ (l + 1) := by rw [pow_add, Nat.mul_div_cancel_left _ (by positivity)]
  have count : 2 ^ (p + (l + 1)) / (2 * 2 ^ p) = 2 ^ l := by
    rw [mul_comm, ← Nat.div_div_eq_div_mul, drawn, pow_succ, Nat.mul_div_cancel _ (by decide)]
  rw [inversePassBlocks, drawn, count]

/-! ## The two orders, pass by pass -/

/-- From pass `p` on, with `l` passes to come, the half length is 2^l / 2 and 2^p − 1 indices have been drawn. -/
theorem forwardPasses_eq (p l : Nat) :
    forwardPasses (2 ^ (p + l)) l (2 ^ l / 2) (2 ^ p - 1) = (List.range' p l).flatMap (forwardPassBlocks (p + l)) := by
  induction l generalizing p with
  | zero => rfl
  | succ l ih =>
    have len : 2 ^ (l + 1) / 2 = 2 ^ l := by omega
    have count : 2 ^ (p + (l + 1)) / (2 * 2 ^ l) = 2 ^ p := by
      rw [← pow_succ', pow_add, Nat.mul_div_cancel _ (by positivity)]
    have pos : 0 < 2 ^ p := by positivity
    have cursor : 2 ^ p - 1 + 2 ^ p = 2 ^ (p + 1) - 1 := by omega
    have cursor' : 2 ^ p - 1 + 1 = 2 ^ p := by omega
    rw [forwardPasses, len, blockStarts, count, List.length_map, List.length_range, forwardPass_map_range, cursor,
      cursor', ← forwardPassBlocks_eq, List.range'_succ, List.flatMap_cons, show p + (l + 1) = p + 1 + l by omega, ih]

/-- From half length 2^p on, with `l` passes to come, the indices below 2^l are still to be drawn. -/
theorem inversePasses_eq (p l : Nat) :
    inversePasses (2 ^ (p + l)) l (2 ^ p) (2 ^ l) = (List.range' p l).flatMap (inversePassBlocks (p + l)) := by
  induction l generalizing p with
  | zero => rfl
  | succ l ih =>
    have count : 2 ^ (p + (l + 1)) / (2 * 2 ^ p) = 2 ^ l := by
      rw [← pow_succ', ← add_assoc, add_right_comm, pow_add, Nat.mul_div_cancel_left _ (by positivity)]
    have cursor : 2 ^ (l + 1) - 2 ^ l = 2 ^ l := by rw [pow_succ]; omega
    rw [inversePasses, blockStarts, count, List.length_map, List.length_range, inversePass_map_range, cursor,
      ← inversePassBlocks_eq, List.range'_succ, List.flatMap_cons, ← pow_succ', show p + (l + 1) = p + 1 + l by omega,
      ih]

theorem forwardBlocks_eq (logN : Nat) : forwardBlocks logN = (List.range logN).flatMap (forwardPassBlocks logN) := by
  have h := forwardPasses_eq 0 logN
  rwa [zero_add, ← List.range_eq_range'] at h

theorem inverseBlocks_eq (logN : Nat) : inverseBlocks logN = (List.range logN).flatMap (inversePassBlocks logN) := by
  have h := inversePasses_eq 0 logN
  rwa [zero_add, ← List.range_eq_range'] at h

/-! ## The table indices drawn (R178) -/

theorem map_k_forwardPassBlocks (logN p : Nat) :
    (forwardPassBlocks logN p).map Block.k = List.range' (2 ^ p) (2 ^ p) := by
  rw [forwardPassBlocks, List.map_map, List.range'_eq_map_range]
  rfl

/-- An inverse pass draws the indices of a forward pass backwards. -/
theorem map_k_inversePassBlocks (p l : Nat) :
    (inversePassBlocks (p + (l + 1)) p).map Block.k = (List.range' (2 ^ l) (2 ^ l)).reverse := by
  rw [inversePassBlocks_eq, List.map_map, List.reverse_range']
  refine List.map_congr_left fun b _ => ?_
  simp only [Function.comp_apply]
  omega

theorem map_k_forwardPasses (logN p : Nat) :
    ((List.range p).flatMap (forwardPassBlocks logN)).map Block.k = List.range' 1 (2 ^ p - 1) := by
  induction p with
  | zero => rfl
  | succ p ih =>
    have pos : 0 < 2 ^ p := by positivity
    have next : 1 + (2 ^ p - 1) = 2 ^ p := by omega
    have count : 2 ^ (p + 1) - 1 = 2 ^ p - 1 + 2 ^ p := by omega
    rw [List.range_succ, List.flatMap_append, List.flatMap_singleton, List.map_append, ih, map_k_forwardPassBlocks,
      count, ← List.range'_append_1, next]

theorem map_k_inversePasses (p l : Nat) :
    ((List.range' p l).flatMap (inversePassBlocks (p + l))).map Block.k = (List.range' 1 (2 ^ l - 1)).reverse := by
  induction l generalizing p with
  | zero => rfl
  | succ l ih =>
    have pos : 0 < 2 ^ l := by positivity
    have next : 1 + (2 ^ l - 1) = 2 ^ l := by omega
    have count : 2 ^ (l + 1) - 1 = 2 ^ l - 1 + 2 ^ l := by omega
    rw [List.range'_succ, List.flatMap_cons, List.map_append, map_k_inversePassBlocks,
      show p + (l + 1) = p + 1 + l by omega, ih, count, ← List.range'_append_1, List.reverse_append, next]

theorem map_k_forwardBlocks (logN : Nat) : (forwardBlocks logN).map Block.k = List.range' 1 (2 ^ logN - 1) := by
  rw [forwardBlocks_eq, map_k_forwardPasses]

theorem map_k_inverseBlocks (logN : Nat) :
    (inverseBlocks logN).map Block.k = (List.range' 1 (2 ^ logN - 1)).reverse := by
  have h := map_k_inversePasses 0 logN
  rwa [zero_add, ← List.range_eq_range', ← inverseBlocks_eq] at h

theorem k_bounds_of_mem_forwardBlocks {logN : Nat} {b : Block} (hb : b ∈ forwardBlocks logN) :
    1 ≤ b.k ∧ b.k < 2 ^ logN := by
  have h := List.mem_map_of_mem (f := Block.k) hb
  rw [map_k_forwardBlocks, List.mem_range'_1] at h
  omega

theorem k_bounds_of_mem_inverseBlocks {logN : Nat} {b : Block} (hb : b ∈ inverseBlocks logN) :
    1 ≤ b.k ∧ b.k < 2 ^ logN := by
  have h := List.mem_map_of_mem (f := Block.k) hb
  rw [map_k_inverseBlocks, List.mem_reverse, List.mem_range'_1] at h
  omega

/-! ## The transforms use a table word modulo Q only (R178) -/

theorem multiplyMod_congr_left {q : Nat} {x y : Int} (h : x ≡ y [ZMOD q]) (v : Int) :
    multiplyMod q x v = multiplyMod q y v := centeredReduce_congr (h.mul_right v)

theorem forwardBlock_congr {q : Nat} {z z' : List Int} {b : Block} (h : z.getD b.k 0 ≡ z'.getD b.k 0 [ZMOD q])
    (c : List Int) : forwardBlock q z c b = forwardBlock q z' c b :=
  List.foldl_ext _ _ c fun c j _ => by simp only [forwardButterfly, multiplyMod_congr_left h]

theorem inverseBlock_congr {q : Nat} {z z' : List Int} {b : Block} (h : z.getD b.k 0 ≡ z'.getD b.k 0 [ZMOD q])
    (c : List Int) : inverseBlock q z c b = inverseBlock q z' c b :=
  List.foldl_ext _ _ c fun c j _ => by simp only [inverseButterfly, multiplyMod_congr_left h.neg]

/-- Two tables agree modulo Q where the transforms read (R178). -/
def TablesAgree (q logN : Nat) (z z' : List Int) : Prop :=
  ∀ i, 1 ≤ i → i < 2 ^ logN → z.getD i 0 ≡ z'.getD i 0 [ZMOD q]

theorem forwardTransform_congr {q logN : Nat} {z z' : List Int} (h : TablesAgree q logN z z') (c : List Int) :
    forwardTransform q logN z c = forwardTransform q logN z' c :=
  List.foldl_ext _ _ c fun c b hb =>
    have ⟨lo, hi⟩ := k_bounds_of_mem_forwardBlocks hb
    forwardBlock_congr (h b.k lo hi) c

theorem inverseLoop_congr {q logN : Nat} {z z' : List Int} (h : TablesAgree q logN z z') (c : List Int) :
    inverseLoop q logN z c = inverseLoop q logN z' c :=
  List.foldl_ext _ _ c fun c b hb =>
    have ⟨lo, hi⟩ := k_bounds_of_mem_inverseBlocks hb
    inverseBlock_congr (h b.k lo hi) c

theorem inverseTransform_congr {q logN : Nat} {z z' : List Int} (h : TablesAgree q logN z z') (c : List Int) :
    inverseTransform q logN z c = inverseTransform q logN z' c := by
  rw [inverseTransform, inverseLoop_congr h, inverseTransform]

end Sys2Proof.Machine

namespace Sys2Proof
open Machine

/-- Settles O38: each pass in closed form, then induction on the passes to come. -/
theorem forwardOrderClosedForm : Obligations.ForwardOrderClosedForm := forwardBlocks_eq

/-- Settles O39: each pass in closed form, then induction on the passes to come. -/
theorem inverseOrderClosedForm : Obligations.InverseOrderClosedForm := inverseBlocks_eq

/-- Settles O40: pass p draws 2^p … 2^(p+1) − 1, and a table word enters only as a factor of `multiplyMod`. -/
theorem transformsReadLowerTableOnce : Obligations.TransformsReadLowerTableOnce := fun logN =>
  ⟨map_k_forwardBlocks logN, map_k_inverseBlocks logN, fun _ _ _ c h =>
    ⟨forwardTransform_congr h c, inverseTransform_congr h c⟩⟩

end Sys2Proof
end

section
/-!
What one pass of a transform computes: the butterflies of a block write disjoint pairs, and so do the blocks of a
pass, so every pair is replaced by the butterfly of its old values (R173, R176).
-/
namespace Sys2Proof.Machine

/-! ## One butterfly -/

/-- A butterfly on the pair (j, j + len): `f` and `g` of its old values. -/
def butterfly (f g : Int → Int → Int) (len : Nat) (c : List Int) (j : Nat) : List Int :=
  (c.set j (f (c.getD j 0) (c.getD (j + len) 0))).set (j + len) (g (c.getD j 0) (c.getD (j + len) 0))

/-- The two values the forward butterfly writes (R173). -/
def forwardLow (q : Nat) (zeta x y : Int) : Int := addMod q x (multiplyMod q zeta y)
def forwardHigh (q : Nat) (zeta x y : Int) : Int := subtractMod q x (multiplyMod q zeta y)

/-- The second value the inverse butterfly writes (R176); the first is `addMod`. -/
def inverseHigh (q : Nat) (zeta x y : Int) : Int := multiplyMod q zeta (subtractMod q x y)

theorem forwardButterfly_eq {len : Nat} (pos : 0 < len) (q : Nat) (zeta : Int) :
    forwardButterfly q zeta len = butterfly (forwardLow q zeta) (forwardHigh q zeta) len := by
  funext c j
  exact List.set_comm _ _ (by omega)

theorem inverseButterfly_eq (q : Nat) (zeta : Int) (len : Nat) :
    inverseButterfly q zeta len = butterfly (addMod q) (inverseHigh q zeta) len := rfl

theorem getD_set (c : List Int) (i j : Nat) (v : Int) :
    (c.set i v).getD j 0 = if i = j ∧ i < c.length then v else c.getD j 0 := by grind

@[simp] theorem length_butterfly (f g : Int → Int → Int) (len : Nat) (c : List Int) (j : Nat) :
    (butterfly f g len c j).length = c.length := by simp [butterfly]

/-! ## The butterflies of a block -/

/-- `d` is `c` after the butterflies on the pairs (start + r, start + r + len) for r < count. -/
structure BlockDone (f g : Int → Int → Int) (len start count : Nat) (c d : List Int) : Prop where
  length : d.length = c.length
  low : ∀ r < count, d.getD (start + r) 0 = f (c.getD (start + r) 0) (c.getD (start + r + len) 0)
  high : ∀ r < count, d.getD (start + r + len) 0 = g (c.getD (start + r) 0) (c.getD (start + r + len) 0)
  rest : ∀ i, (∀ r < count, i ≠ start + r ∧ i ≠ start + r + len) → d.getD i 0 = c.getD i 0

/-- One more butterfly; its pair meets none of the pairs before it, since count < len. -/
theorem BlockDone.step {f g : Int → Int → Int} {len start count : Nat} {c d : List Int}
    (h : BlockDone f g len start count c d) (more : count < len) (fits : start + count + len < c.length) :
    BlockDone f g len start (count + 1) c (butterfly f g len d (start + count)) := by
  have length := h.length
  have low : d.getD (start + count) 0 = c.getD (start + count) 0 := h.rest _ fun r hr => by omega
  have high : d.getD (start + count + len) 0 = c.getD (start + count + len) 0 := h.rest _ fun r hr => by omega
  have written (i : Nat) : (butterfly f g len d (start + count)).getD i 0 =
      if i = start + count + len then g (c.getD (start + count) 0) (c.getD (start + count + len) 0)
      else if i = start + count then f (c.getD (start + count) 0) (c.getD (start + count + len) 0)
      else d.getD i 0 := by
    simp only [butterfly, getD_set, List.length_set, low, high, eq_comm (b := i), length, fits, and_true,
      show start + count < c.length by omega]
  refine ⟨by simp [length], fun r hr => ?_, fun r hr => ?_, fun i hi => ?_⟩
  · rw [written, if_neg (by omega)]
    obtain rfl | lt := Nat.eq_or_lt_of_le (Nat.le_of_lt_succ hr)
    · rw [if_pos rfl]
    · rw [if_neg (by omega), h.low r lt]
  · rw [written]
    obtain rfl | lt := Nat.eq_or_lt_of_le (Nat.le_of_lt_succ hr)
    · rw [if_pos rfl]
    · rw [if_neg (by omega), if_neg (by omega), h.high r lt]
  · obtain ⟨ne, ne'⟩ := hi count (by omega)
    rw [written, if_neg ne', if_neg ne, h.rest i fun r hr => hi r (by omega)]

theorem blockDone_foldl (f g : Int → Int → Int) {len start count : Nat} {c : List Int} (hcount : count ≤ len)
    (fits : start + count + len ≤ c.length) :
    BlockDone f g len start count c ((List.range' start count).foldl (butterfly f g len) c) := by
  induction count with
  | zero => exact ⟨rfl, nofun, nofun, fun _ _ => rfl⟩
  | succ count ih =>
    rw [List.range'_1_concat, List.foldl_append]
    exact (ih (by omega) (by omega)).step (by omega) (by omega)

/-! ## The blocks of a pass -/

/-- `d` is `c` after `count` blocks of half length `len` side by side from index 0, block `b` with the butterfly
`f b`, `g b`. -/
structure PassDone (f g : Nat → Int → Int → Int) (len count : Nat) (c d : List Int) : Prop where
  length : d.length = c.length
  low : ∀ b < count, ∀ r < len,
    d.getD (2 * len * b + r) 0 = f b (c.getD (2 * len * b + r) 0) (c.getD (2 * len * b + r + len) 0)
  high : ∀ b < count, ∀ r < len,
    d.getD (2 * len * b + r + len) 0 = g b (c.getD (2 * len * b + r) 0) (c.getD (2 * len * b + r + len) 0)
  rest : ∀ i, 2 * len * count ≤ i → d.getD i 0 = c.getD i 0

/-- One more block; it lies past the blocks before it. -/
theorem PassDone.step {f g : Nat → Int → Int → Int} {len count : Nat} {c d e : List Int}
    (h : PassDone f g len count c d) (block : BlockDone (f count) (g count) len (2 * len * count) len d e) :
    PassDone f g len (count + 1) c e := by
  have before {b : Nat} (hb : b < count) : 2 * len * b + 2 * len ≤ 2 * len * count :=
    Nat.mul_le_mul_left (2 * len) hb
  refine ⟨block.length.trans h.length, fun b hb r hr => ?_, fun b hb r hr => ?_, fun i hi => ?_⟩
  · obtain rfl | lt := Nat.eq_or_lt_of_le (Nat.le_of_lt_succ hb)
    · rw [block.low r hr, h.rest _ (by omega), h.rest _ (by omega)]
    · have le := before lt
      rw [block.rest _ fun r' _ => by omega, h.low b lt r hr]
  · obtain rfl | lt := Nat.eq_or_lt_of_le (Nat.le_of_lt_succ hb)
    · rw [block.high r hr, h.rest _ (by omega), h.rest _ (by omega)]
    · have le := before lt
      rw [block.rest _ fun r' _ => by omega, h.high b lt r hr]
  · rw [mul_add_one] at hi
    rw [block.rest _ fun r' _ => by omega, h.rest i (by omega)]

theorem passDone_foldl (f g : Nat → Int → Int → Int) {len count : Nat} {c : List Int}
    (fits : 2 * len * count ≤ c.length) :
    PassDone f g len count c
      ((List.range count).foldl (fun c b => (List.range' (2 * len * b) len).foldl (butterfly (f b) (g b) len) c) c) := by
  induction count with
  | zero => exact ⟨rfl, nofun, nofun, fun _ _ => rfl⟩
  | succ count ih =>
    rw [mul_add_one] at fits
    have done := ih (by omega)
    rw [List.range_succ, List.foldl_append]
    exact done.step (blockDone_foldl _ _ le_rfl (by rw [done.length]; omega))

/-! ## The passes of the transforms -/

/-- Forward pass `p` when `l` passes are to come (R171, R173). -/
theorem forwardPass_passDone (q : Nat) (z : List Int) (p l : Nat) {c : List Int} (hc : c.length = 2 ^ (p + (l + 1))) :
    PassDone (fun b => forwardLow q (z.getD (2 ^ p + b) 0)) (fun b => forwardHigh q (z.getD (2 ^ p + b) 0))
      (2 ^ l) (2 ^ p) c ((forwardPassBlocks (p + (l + 1)) p).foldl (forwardBlock q z) c) := by
  have fits : 2 * 2 ^ l * 2 ^ p ≤ c.length := hc ▸ le_of_eq (by ring)
  rw [forwardPassBlocks_eq, List.foldl_map]
  simp only [forwardBlock, Block.indices, forwardButterfly_eq (Nat.two_pow_pos l)]
  exact passDone_foldl (fun b => forwardLow q (z.getD (2 ^ p + b) 0)) _ fits

/-- The inverse pass of half length 2^p when `l` passes are to come (R172, R176). -/
theorem inversePass_passDone (q : Nat) (z : List Int) (p l : Nat) {c : List Int} (hc : c.length = 2 ^ (p + (l + 1))) :
    PassDone (fun _ => addMod q) (fun b => inverseHigh q (-z.getD (2 ^ (l + 1) - 1 - b) 0))
      (2 ^ p) (2 ^ l) c ((inversePassBlocks (p + (l + 1)) p).foldl (inverseBlock q z) c) := by
  have fits : 2 * 2 ^ p * 2 ^ l ≤ c.length := hc ▸ le_of_eq (by ring)
  rw [inversePassBlocks_eq, List.foldl_map]
  exact passDone_foldl (fun _ => addMod q) (fun b => inverseHigh q (-z.getD (2 ^ (l + 1) - 1 - b) 0)) fits

/-- `c` after the first `p` forward passes (R174). -/
def forwardPassed (q logN : Nat) (z c : List Int) (p : Nat) : List Int :=
  (List.range p).foldl (fun c p => (forwardPassBlocks logN p).foldl (forwardBlock q z) c) c

/-- `c` after the first `p` inverse passes (R176). -/
def inversePassed (q logN : Nat) (z c : List Int) (p : Nat) : List Int :=
  (List.range p).foldl (fun c p => (inversePassBlocks logN p).foldl (inverseBlock q z) c) c

theorem forwardTransform_eq_forwardPassed (q logN : Nat) (z c : List Int) :
    forwardTransform q logN z c = forwardPassed q logN z c logN := by
  rw [forwardTransform, forwardBlocks_eq, List.foldl_flatMap, forwardPassed]

theorem inverseLoop_eq_inversePassed (q logN : Nat) (z c : List Int) :
    inverseLoop q logN z c = inversePassed q logN z c logN := by
  rw [inverseLoop, inverseBlocks_eq, List.foldl_flatMap, inversePassed]

theorem forwardPassed_succ (q logN : Nat) (z c : List Int) (p : Nat) :
    forwardPassed q logN z c (p + 1) =
      (forwardPassBlocks logN p).foldl (forwardBlock q z) (forwardPassed q logN z c p) := by
  rw [forwardPassed, List.range_succ, List.foldl_append]
  rfl

theorem inversePassed_succ (q logN : Nat) (z c : List Int) (p : Nat) :
    inversePassed q logN z c (p + 1) =
      (inversePassBlocks logN p).foldl (inverseBlock q z) (inversePassed q logN z c p) := by
  rw [inversePassed, List.range_succ, List.foldl_append]
  rfl

@[simp] theorem forwardPassed_length (q logN : Nat) (z c : List Int) (p : Nat) :
    (forwardPassed q logN z c p).length = c.length :=
  length_foldl_of_keeps (fun _ _ => length_foldl_of_keeps (fun _ _ => length_foldl_of_keeps (fun _ _ => by
    simp [forwardButterfly]) _ _) _ _) _ _

@[simp] theorem inversePassed_length (q logN : Nat) (z c : List Int) (p : Nat) :
    (inversePassed q logN z c p).length = c.length :=
  length_foldl_of_keeps (fun _ _ => length_foldl_of_keeps (fun _ _ => length_foldl_of_keeps (fun _ _ => by
    simp [inverseButterfly]) _ _) _ _) _ _

/-- The last forward pass writes every coefficient, as a sum or a difference modulo Q (R173). -/
theorem forwardTransform_centred {q : Nat} (hq : q % 2 = 1) {logN : Nat} (pos : 1 ≤ logN) (z : List Int) {c : List Int}
    (hc : c.length = 2 ^ logN) : ∀ v ∈ forwardTransform q logN z c, Centred q v := by
  obtain ⟨p, rfl⟩ := Nat.exists_eq_add_of_le' pos
  have last := forwardPass_passDone q z p 0 (c := forwardPassed q (p + 1) z c p) (by simpa using hc)
  intro v hv
  obtain ⟨i, hi, rfl⟩ := List.getElem_of_mem hv
  have lt : i / 2 < 2 ^ p := by
    rw [forwardTransform_length, hc, pow_succ] at hi
    omega
  rw [← List.getD_eq_getElem _ 0 hi, forwardTransform_eq_forwardPassed, forwardPassed_succ]
  obtain even | odd := Nat.mod_two_eq_zero_or_one i
  · have h := last.low (i / 2) lt 0 one_pos
    rw [show 2 * 2 ^ 0 * (i / 2) + 0 = i by omega] at h
    exact h ▸ centeredReduce_centred hq _
  · have h := last.high (i / 2) lt 0 one_pos
    rw [show 2 * 2 ^ 0 * (i / 2) + 0 + 2 ^ 0 = i by omega] at h
    exact h ▸ centeredReduce_centred hq _

end Sys2Proof.Machine
end

section
/-!
What the transforms compute modulo Q with a table of a root zeta^N ≡ −1 (R174, R179): after p forward passes block b
holds the input modulo X^len − zeta^((2·bitReverse(b, p) + 1)·len), and an inverse pass undoes a forward one up to a
factor 2.
-/
namespace Sys2Proof.Machine

/-! ## Bit reversal one low bit at a time (R150) -/

/-- The lowest of p + 1 bits becomes the highest. -/
theorem bitReverse_bit (x : Bool) (t p : Nat) :
    bitReverse (Nat.bit x t) (p + 1) = bitReverse t p + x.toNat * 2 ^ p := by
  have rest : ∀ i ∈ List.range p,
      ((Nat.bit x t).testBit (i + 1)).toNat * 2 ^ (p - (i + 1)) = (t.testBit i).toNat * 2 ^ (p - 1 - i) := by
    intro i _
    rw [Nat.testBit_bit_succ, Nat.sub_add_eq, Nat.sub_right_comm]
  simp [bitReverse, List.range_succ_eq_map, Function.comp_def, List.map_congr_left rest, add_comm]

theorem bitReverse_two_mul (b p : Nat) : bitReverse (2 * b) (p + 1) = bitReverse b p := by
  simpa using bitReverse_bit false b p

theorem bitReverse_two_mul_add_one (b p : Nat) : bitReverse (2 * b + 1) (p + 1) = bitReverse b p + 2 ^ p := by
  simpa using bitReverse_bit true b p

/-- The exponent of the table word that block `b` of forward pass `p` draws (R154, R171). -/
theorem bitReverse_two_pow_add {b p : Nat} (hb : b < 2 ^ p) (l : Nat) :
    bitReverse (2 ^ p + b) (p + (l + 1)) = (2 * bitReverse b p + 1) * 2 ^ l := by
  induction p generalizing b with
  | zero =>
    obtain rfl : b = 0 := by omega
    simpa [add_comm] using bitReverse_two_mul_add_one 0 l
  | succ p ih =>
    rw [show p + 1 + (l + 1) = p + (l + 1) + 1 by omega]
    obtain ⟨b', rfl | rfl⟩ := Nat.even_or_odd' b
    · rw [show 2 ^ (p + 1) + 2 * b' = 2 * (2 ^ p + b') by ring, bitReverse_two_mul, bitReverse_two_mul, ih (by omega)]
    · rw [show 2 ^ (p + 1) + (2 * b' + 1) = 2 * (2 ^ p + b') + 1 by ring, bitReverse_two_mul_add_one,
        bitReverse_two_mul_add_one, ih (by omega)]
      ring

/-- Complementing all bits complements the reversed number. -/
theorem bitReverse_add_complement {b b' p : Nat} (h : b + b' + 1 = 2 ^ p) :
    bitReverse b p + bitReverse b' p + 1 = 2 ^ p := by
  induction p generalizing b b' with
  | zero => rfl
  | succ p ih =>
    obtain ⟨k, rfl | rfl⟩ := Nat.even_or_odd' b
    · obtain ⟨k', rfl⟩ : ∃ k', b' = 2 * k' + 1 := ⟨b' / 2, by omega⟩
      have half := ih (b := k) (b' := k') (by omega)
      rw [bitReverse_two_mul, bitReverse_two_mul_add_one]
      omega
    · obtain ⟨k', rfl⟩ : ∃ k', b' = 2 * k' := ⟨b' / 2, by omega⟩
      have half := ih (b := k) (b' := k') (by omega)
      rw [bitReverse_two_mul, bitReverse_two_mul_add_one]
      omega

/-! ## Remainders modulo X^len − w -/

section
variable {R : Type} [CommRing R]

/-- Coefficient `r` of the sum of a j · X^j over j < len · count, modulo X^len − w. -/
def remainderCoeff (a : Nat → R) (len count : Nat) (w : R) (r : Nat) : R :=
  ∑ t ∈ Finset.range count, a (len * t + r) * w ^ t

/-- The remainder modulo X^len − w from that modulo X^(2·len) − w². -/
theorem remainderCoeff_two_mul (a : Nat → R) (len count : Nat) (w : R) (r : Nat) :
    remainderCoeff a len (2 * count) w r =
      remainderCoeff a (2 * len) count (w ^ 2) r + w * remainderCoeff a (2 * len) count (w ^ 2) (r + len) := by
  unfold remainderCoeff
  induction count with
  | zero => simp
  | succ count ih =>
    rw [mul_add_one, Finset.sum_range_succ, Finset.sum_range_succ, ih, Finset.sum_range_succ, Finset.sum_range_succ,
      show 2 * len * count + r = len * (2 * count) + r by ring,
      show 2 * len * count + (r + len) = len * (2 * count + 1) + r by ring]
    ring

theorem remainderCoeff_const_mul (s : R) (a : Nat → R) (len count : Nat) (w : R) (r : Nat) :
    remainderCoeff (fun j => s * a j) len count w r = s * remainderCoeff a len count w r := by
  simp only [remainderCoeff, Finset.mul_sum, mul_assoc]

/-! ## The roots the passes use -/

/-- The root of block `b` after `p` forward passes, with half length 2^l before the next. -/
def blockRoot (w : R) (p l b : Nat) : R := w ^ ((2 * bitReverse b p + 1) * 2 ^ l)

theorem blockRoot_sq (w : R) (p l b : Nat) : blockRoot w p l b ^ 2 = blockRoot w p (l + 1) b := by
  rw [blockRoot, blockRoot, ← pow_mul, pow_succ, mul_assoc]

theorem blockRoot_two_mul (w : R) (p l b : Nat) : blockRoot w (p + 1) l (2 * b) = blockRoot w p l b := by
  rw [blockRoot, bitReverse_two_mul, blockRoot]

theorem blockRoot_two_mul_add_one {w : R} {p l : Nat} (root : w ^ 2 ^ (p + (l + 1)) = -1) (b : Nat) :
    blockRoot w (p + 1) l (2 * b + 1) = -blockRoot w p l b := by
  rw [blockRoot, bitReverse_two_mul_add_one, blockRoot,
    show (2 * (bitReverse b p + 2 ^ p) + 1) * 2 ^ l = (2 * bitReverse b p + 1) * 2 ^ l + 2 ^ (p + (l + 1)) by ring,
    pow_add, root, mul_neg_one]

theorem blockRoot_mul_complement {w : R} {p l : Nat} (root : w ^ 2 ^ (p + (l + 1)) = -1) {b b' : Nat}
    (h : b + b' + 1 = 2 ^ p) : blockRoot w p l b' * blockRoot w p l b = -1 := by
  have sum := bitReverse_add_complement h
  rw [blockRoot, blockRoot, ← pow_add, ← add_mul,
    show 2 * bitReverse b' p + 1 + (2 * bitReverse b p + 1) = 2 ^ (p + 1) by omega, ← pow_add,
    show p + 1 + l = p + (l + 1) by omega, root]

/-- The two children of a block (R171): its remainder split by the root and by its negative. -/
theorem remainderCoeff_two_mul_block (a : Nat → R) (w : R) (p l b r : Nat) :
    remainderCoeff a (2 ^ l) (2 ^ (p + 1)) (blockRoot w (p + 1) l (2 * b)) r =
      remainderCoeff a (2 ^ (l + 1)) (2 ^ p) (blockRoot w p (l + 1) b) r +
        blockRoot w p l b * remainderCoeff a (2 ^ (l + 1)) (2 ^ p) (blockRoot w p (l + 1) b) (r + 2 ^ l) := by
  rw [pow_succ', remainderCoeff_two_mul, blockRoot_two_mul, blockRoot_sq, pow_succ']

theorem remainderCoeff_two_mul_add_one_block {w : R} {p l : Nat} (root : w ^ 2 ^ (p + (l + 1)) = -1) (a : Nat → R)
    (b r : Nat) :
    remainderCoeff a (2 ^ l) (2 ^ (p + 1)) (blockRoot w (p + 1) l (2 * b + 1)) r =
      remainderCoeff a (2 ^ (l + 1)) (2 ^ p) (blockRoot w p (l + 1) b) r -
        blockRoot w p l b * remainderCoeff a (2 ^ (l + 1)) (2 ^ p) (blockRoot w p (l + 1) b) (r + 2 ^ l) := by
  rw [pow_succ' 2 p, remainderCoeff_two_mul, blockRoot_two_mul_add_one root, neg_sq, blockRoot_sq, neg_mul,
    ← sub_eq_add_neg, pow_succ']

end

/-! ## Arithmetic modulo Q -/

section
variable {q : Nat}

/-- A coefficient of a list, modulo Q. -/
def residueAt (q : Nat) (c : List Int) (i : Nat) : ZMod q := ((c.getD i 0 : Int) : ZMod q)

@[simp] theorem cast_centeredReduce (x : Int) : ((centeredReduce q x : Int) : ZMod q) = x :=
  (ZMod.intCast_eq_intCast_iff ..).mpr (centeredReduce_modEq q x)

@[simp] theorem cast_addMod (x y : Int) : ((addMod q x y : Int) : ZMod q) = x + y := by simp [addMod]

@[simp] theorem cast_subtractMod (x y : Int) : ((subtractMod q x y : Int) : ZMod q) = x - y := by simp [subtractMod]

@[simp] theorem cast_multiplyMod (x y : Int) : ((multiplyMod q x y : Int) : ZMod q) = x * y := by simp [multiplyMod]

/-- Modulo Q the table holds, where the transforms read it, the powers of a root w^N = −1 that R154 lists. -/
structure RootTable (q logN : Nat) (w : ZMod q) (z : List Int) : Prop where
  root : w ^ 2 ^ logN = -1
  entry : ∀ i, 1 ≤ i → i < 2 ^ logN → residueAt q z i = w ^ bitReverse i logN

theorem IsPowerTable.rootTable {c : Config} (hq : 1 < c.q) {zeta : Int} {z : List Int} (h : IsPowerTable c zeta z)
    (root : zeta ^ c.n ≡ -1 [ZMOD c.q]) : RootTable c.q c.logN zeta z where
  root := by
    rw [← Int.cast_pow, ← Int.cast_one, ← Int.cast_neg]
    exact (ZMod.intCast_eq_intCast_iff ..).mpr root
  entry i lo hi := by
    rw [residueAt, h i lo hi, zetaEntry_eq_expMod, expMod_natCast hq, ZMod.intCast_mod, Int.cast_pow]

/-- Block `b` of forward pass `p` draws its root. -/
theorem RootTable.forward_entry {w : ZMod q} {z : List Int} {p l : Nat} (h : RootTable q (p + (l + 1)) w z) {b : Nat}
    (hb : b < 2 ^ p) : residueAt q z (2 ^ p + b) = blockRoot w p l b := by
  have pos : 0 < 2 ^ p := Nat.two_pow_pos p
  have lt : 2 ^ (p + 1) ≤ 2 ^ (p + (l + 1)) := Nat.pow_le_pow_right (by decide) (by omega)
  rw [h.entry _ (by omega) (by omega), bitReverse_two_pow_add hb, blockRoot]

/-- Block `b` of the inverse pass that undoes forward pass `p` draws the negative of the inverse root (R176). -/
theorem RootTable.inverse_entry_mul {w : ZMod q} {z : List Int} {p l : Nat} (h : RootTable q (p + (l + 1)) w z) {b : Nat}
    (hb : b < 2 ^ p) : residueAt q z (2 ^ (p + 1) - 1 - b) * blockRoot w p l b = -1 := by
  rw [show 2 ^ (p + 1) - 1 - b = 2 ^ p + (2 ^ p - 1 - b) by omega, h.forward_entry (by omega),
    blockRoot_mul_complement h.root (by omega)]

/-! ## The passes modulo Q -/

/-- Modulo Q, `c` holds 2^p blocks of 2^l coefficients: `a` modulo X^(2^l) − the root of each block. -/
def HoldsRemainders (w : ZMod q) (a : Nat → ZMod q) (p l : Nat) (c : List Int) : Prop :=
  ∀ b < 2 ^ p, ∀ r < 2 ^ l,
    residueAt q c (2 ^ l * b + r) = remainderCoeff a (2 ^ l) (2 ^ p) (blockRoot w p l b) r

/-- The butterfly pairs after forward pass `p`, from the remainders before it. -/
theorem holdsRemainders_succ_iff {w : ZMod q} {p l : Nat} (root : w ^ 2 ^ (p + (l + 1)) = -1) (a : Nat → ZMod q)
    (c : List Int) :
    HoldsRemainders w a (p + 1) l c ↔
      ∀ b < 2 ^ p, ∀ r < 2 ^ l,
        residueAt q c (2 * 2 ^ l * b + r) =
          remainderCoeff a (2 ^ (l + 1)) (2 ^ p) (blockRoot w p (l + 1) b) r +
            blockRoot w p l b * remainderCoeff a (2 ^ (l + 1)) (2 ^ p) (blockRoot w p (l + 1) b) (r + 2 ^ l) ∧
        residueAt q c (2 * 2 ^ l * b + r + 2 ^ l) =
          remainderCoeff a (2 ^ (l + 1)) (2 ^ p) (blockRoot w p (l + 1) b) r -
            blockRoot w p l b * remainderCoeff a (2 ^ (l + 1)) (2 ^ p) (blockRoot w p (l + 1) b) (r + 2 ^ l) := by
  have low (b r : Nat) : 2 * 2 ^ l * b + r = 2 ^ l * (2 * b) + r := by ring
  have high (b r : Nat) : 2 ^ l * (2 * b) + r + 2 ^ l = 2 ^ l * (2 * b + 1) + r := by ring
  simp only [low, high, ← remainderCoeff_two_mul_block, ← remainderCoeff_two_mul_add_one_block root]
  constructor
  · exact fun h b hb r hr => ⟨h (2 * b) (by omega) r hr, h (2 * b + 1) (by omega) r hr⟩
  · intro h b' hb' r hr
    obtain ⟨b, rfl | rfl⟩ := Nat.even_or_odd' b'
    · exact (h b (by omega) r hr).1
    · exact (h b (by omega) r hr).2

theorem HoldsRemainders.forwardPass {w : ZMod q} {a : Nat → ZMod q} {z c : List Int} {p l : Nat}
    (table : RootTable q (p + (l + 1)) w z) (hc : c.length = 2 ^ (p + (l + 1))) (h : HoldsRemainders w a p (l + 1) c) :
    HoldsRemainders w a (p + 1) l ((forwardPassBlocks (p + (l + 1)) p).foldl (forwardBlock q z) c) := by
  have pass := forwardPass_passDone q z p l hc
  refine (holdsRemainders_succ_iff table.root a _).mpr fun b hb r hr => ?_
  have lower := h b hb r (by omega)
  have upper := h b hb (r + 2 ^ l) (by omega)
  rw [← add_assoc] at upper
  rw [← lower, ← upper, ← table.forward_entry hb, pow_succ' 2 l]
  constructor
  · rw [residueAt, pass.low b hb r hr, forwardLow, cast_addMod, cast_multiplyMod]
    rfl
  · rw [residueAt, pass.high b hb r hr, forwardHigh, cast_subtractMod, cast_multiplyMod]
    rfl

/-- The inverse pass of half length 2^p undoes forward pass `l`, up to a factor 2 (R179). -/
theorem HoldsRemainders.inversePass {w : ZMod q} {a : Nat → ZMod q} {z c : List Int} {p l : Nat}
    (table : RootTable q (l + (p + 1)) w z) (hc : c.length = 2 ^ (l + (p + 1))) (h : HoldsRemainders w a (l + 1) p c) :
    HoldsRemainders w (fun j => 2 * a j) l (p + 1)
      ((inversePassBlocks (l + (p + 1)) p).foldl (inverseBlock q z) c) := by
  have pairs := (holdsRemainders_succ_iff table.root a c).mp h
  have drawn {b : Nat} (hb : b < 2 ^ l) := table.inverse_entry_mul hb
  rw [show l + (p + 1) = p + (l + 1) by omega] at hc ⊢
  have pass := inversePass_passDone q z p l hc
  intro b hb r' hr'
  rw [remainderCoeff_const_mul, pow_succ' 2 p]
  obtain lt | ge := Nat.lt_or_ge r' (2 ^ p)
  · obtain ⟨even, odd⟩ := pairs b hb r' lt
    rw [residueAt, pass.low b hb r' lt, cast_addMod, ← residueAt, ← residueAt, even, odd, pow_succ' 2 p]
    ring
  · obtain ⟨r, rfl⟩ := Nat.exists_eq_add_of_le' ge
    have lt : r < 2 ^ p := by omega
    obtain ⟨even, odd⟩ := pairs b hb r lt
    rw [← add_assoc (2 * 2 ^ p * b), residueAt, pass.high b hb r lt, inverseHigh, cast_multiplyMod, cast_subtractMod,
      Int.cast_neg, ← residueAt, ← residueAt, ← residueAt, even, odd, ← pow_succ' 2 p]
    linear_combination (-2 * remainderCoeff a (2 ^ (p + 1)) (2 ^ l) (blockRoot w l (p + 1) b) (r + 2 ^ p)) * drawn hb

/-! ## The transforms modulo Q -/

section
variable {logN : Nat} {w : ZMod q} {z c : List Int} {a : Nat → ZMod q}

/-- After `p` forward passes (R174). -/
theorem holdsRemainders_forwardPassed (table : RootTable q logN w z) (hc : c.length = 2 ^ logN) {p l : Nat}
    (hp : p + l = logN) : HoldsRemainders w (residueAt q c) p l (forwardPassed q logN z c p) := by
  induction p generalizing l with
  | zero =>
    intro b hb r _
    obtain rfl : b = 0 := by omega
    simp [forwardPassed, remainderCoeff]
  | succ p ih =>
    obtain rfl : logN = p + (l + 1) := by omega
    rw [forwardPassed_succ]
    exact (ih rfl).forwardPass table (by simpa using hc)

/-- After `p` inverse passes, from the remainders that all forward passes leave (R179). -/
theorem HoldsRemainders.inversePassed (table : RootTable q logN w z) (hc : c.length = 2 ^ logN)
    (h : HoldsRemainders w a logN 0 c) {p l : Nat} (hp : l + p = logN) :
    HoldsRemainders w (fun j => 2 ^ p * a j) l p (inversePassed q logN z c p) := by
  induction p generalizing l with
  | zero =>
    obtain rfl : l = logN := hp
    simpa [Machine.inversePassed] using h
  | succ p ih =>
    obtain rfl : logN = l + (p + 1) := by omega
    rw [inversePassed_succ]
    have next := (ih (l := l + 1) (by omega)).inversePass table (by simpa using hc)
    simpa only [pow_succ', mul_assoc] using next

/-- The forward transform evaluates at odd powers of the root, in bit-reversed order (R174). -/
theorem residueAt_forwardTransform (table : RootTable q logN w z) (hc : c.length = 2 ^ logN) {i : Nat}
    (hi : i < 2 ^ logN) :
    residueAt q (forwardTransform q logN z c) i =
      ∑ j ∈ Finset.range (2 ^ logN), residueAt q c j * w ^ ((2 * bitReverse i logN + 1) * j) := by
  have h := holdsRemainders_forwardPassed table hc (add_zero logN) i hi 0 one_pos
  rw [forwardTransform_eq_forwardPassed]
  simpa [remainderCoeff, blockRoot, ← pow_mul] using h

/-- The factor of the inverse transform is the inverse of N (R176); Q is odd, so it exists. -/
theorem inverseScale_mul (prime : q.Prime) (odd : q % 2 = 1) (logN : Nat) :
    ((inverseScale q logN : Int) : ZMod q) * 2 ^ logN = 1 := by
  have unit : (2 ^ logN : Int) % q ≠ 0 := by
    intro zero
    have dvd : q ∣ 2 ^ logN := by exact_mod_cast Int.dvd_of_emod_eq_zero zero
    have two := (Nat.prime_dvd_prime_iff_eq prime Nat.prime_two).mp (prime.dvd_of_dvd_pow dvd)
    omega
  obtain ⟨v, found, -, inverse⟩ := exists_modInverse_eq_some prime odd unit
  rw [inverseScale, found, Option.getD_some]
  exact_mod_cast (ZMod.intCast_eq_intCast_iff ..).mpr inverse

theorem residueAt_inverseTransform_eq_mul {j : Nat} (hj : j < c.length) :
    residueAt q (inverseTransform q logN z c) j =
      residueAt q (inverseLoop q logN z c) j * ((inverseScale q logN : Int) : ZMod q) := by
  have lt : j < (inverseTransform q logN z c).length := by simpa using hj
  have lt' : j < (inverseLoop q logN z c).length := by simpa [inverseTransform] using lt
  simp [residueAt, inverseTransform, lt']

/-- The inverse transform of these values gives the coefficients back (R179). -/
theorem residueAt_inverseTransform (table : RootTable q logN w z) (prime : q.Prime) (odd : q % 2 = 1)
    (hc : c.length = 2 ^ logN)
    (values : ∀ i < 2 ^ logN, residueAt q c i =
      ∑ j ∈ Finset.range (2 ^ logN), a j * w ^ ((2 * bitReverse i logN + 1) * j))
    {j : Nat} (hj : j < 2 ^ logN) : residueAt q (inverseTransform q logN z c) j = a j := by
  have evaluated : HoldsRemainders w a logN 0 c := by
    intro b hb r hr
    obtain rfl : r = 0 := by omega
    simpa [remainderCoeff, blockRoot, ← pow_mul] using values b hb
  have loop : residueAt q (inverseLoop q logN z c) j = 2 ^ logN * a j := by
    have h := evaluated.inversePassed table hc (zero_add logN) 0 one_pos j hj
    rw [inverseLoop_eq_inversePassed]
    simpa [remainderCoeff] using h
  rw [residueAt_inverseTransform_eq_mul (hc ▸ hj), loop]
  linear_combination a j * inverseScale_mul prime odd logN

/-- The inverse transform undoes the forward one modulo Q (R179). -/
theorem residueAt_inverseTransform_forwardTransform (table : RootTable q logN w z) (prime : q.Prime) (odd : q % 2 = 1)
    (hc : c.length = 2 ^ logN) {j : Nat} (hj : j < 2 ^ logN) :
    residueAt q (inverseTransform q logN z (forwardTransform q logN z c)) j = residueAt q c j :=
  residueAt_inverseTransform table prime odd ((forwardTransform_length ..).trans hc)
    (fun _ hi => residueAt_forwardTransform table hc hi) hj

end

end

end Sys2Proof.Machine
end

section
/-!
The commands on slots: what they leave (R180, R212, R230), the checks of NTT and INTT in order (R175, R177, R246), and
what the two commands write (R174, R179); settles O21, O36, O37, O41 and O42.
-/
namespace Sys2Proof.Machine

/-! ## Frames (R180, R212, R230) -/

theorem CommandWrites.sregs_eq {s u : State} {i : Instr} (h : CommandWrites s i u) (hd : scalarDest i = none) :
    u.sregs = s.sregs := by
  cases h with
  | register dest => exact nomatch hd.symm.trans dest
  | table => rfl
  | element => rfl
  | run ed eb => exact State.matvecResult_induction (P := (·.sregs = s.sregs)) ed eb rfl fun _ _ ht => ht

theorem CommandWrites.slotCount_eq {s u : State} {i : Instr} (h : CommandWrites s i u) :
    u.mem.slots.length = s.mem.slots.length := by
  cases h with
  | register => rfl
  | table => rfl
  | element => exact List.length_set
  | run ed eb =>
    exact State.matvecResult_induction (P := (·.mem.slots.length = s.mem.slots.length)) ed eb rfl
      fun _ _ ht => List.length_set.trans ht

theorem exec_sregs_eq {i : Instr} {s t : State} (h : exec i s = .next t) (hd : scalarDest i = none) :
    t.sregs = s.sregs := by
  cases exec_ends h with
  | failed => rfl
  | wrote writes => exact writes.sregs_eq hd

theorem exec_slotCount_eq {i : Instr} {s t : State} (h : exec i s = .next t) :
    t.mem.slots.length = s.mem.slots.length := by
  cases exec_ends h with
  | failed => rfl
  | wrote writes => exact writes.slotCount_eq

/-- A command without a scalar destination and other than ZGEN changes slots only. -/
theorem exec_slotFrame {i : Instr} {s t : State} (h : exec i s = .next t) (hd : scalarDest i = none)
    (hi : ∀ rs1, i ≠ .zgen rs1) {written : Nat → Prop} (hw : ∀ k, mayWrite i s (.tags k) → written k) :
    SlotFrame written s t where
  control := exec_sameControl h
  sregs := exec_sregs_eq h hd
  slots k hk := exec_slot_eq h (mt (hw k) hk)
  count := exec_slotCount_eq h
  zeta := (exec_table_eq h hi).2
  zpresent := (exec_table_eq h hi).1

theorem exec_slotFrame_of_slotDest {i : Instr} {ed : SlotNo} {s t : State} (hd : slotDest i = some ed)
    (h : exec i s = .next t) : SlotFrame (fun k => k = ed.toNat) s t := by
  have no_scalar : scalarDest i = none := by
    cases hs : scalarDest i with
    | none => rfl
    | some rd => exact nomatch (slotDest_of_scalarDest hs).symm.trans hd
  refine exec_slotFrame h no_scalar ?_ ?_
  · rintro rs1 rfl
    exact nomatch hd
  · rintro k (⟨ed', hd', rfl⟩ | ⟨ed', eb, rfl, -⟩)
    · rw [Option.some.inj (hd.symm.trans hd')]
    · exact nomatch hd

theorem exec_matvec_slotFrame {ed eb : SlotNo} {s t : State} (h : exec (.matvec ed eb) s = .next t) :
    SlotFrame (fun k => ∃ i, i < s.mrows.toNat ∧ k = outputSlot ed i) s t := by
  refine exec_slotFrame h rfl nofun ?_
  rintro k (⟨ed', hd', -⟩ | ⟨ed', eb', same, i, hi, rfl⟩)
  · exact nomatch hd'
  · cases same
    exact ⟨i, hi, rfl⟩

/-! ## ERRINFO as a number (R245) -/

theorem Tags.toBits_toNat (t : Tags) : t.toBits.toNat = t.number := by
  obtain ⟨_ | _, _ | _, _ | _⟩ := t <;> rfl

theorem ErrFields.toWord_eq_errWord (f : ErrFields) :
    f.toWord = errWord f.operand.toBits.toNat f.slot.toNat f.row.toNat f.col.toNat f.expected.toNat f.actual.toNat := by
  refine BitVec.eq_of_toNat_eq ?_
  simp only [toWord, toNat_append_eq_add, errWord, BitVec.toNat_ofNat]
  omega

theorem slotField_toNat (k : SlotNo) : (k.setWidth 16).toNat = k.toNat := BitVec.toNat_setWidth_of_le (by decide)

theorem slotInfo_toWord (k : SlotNo) : (slotInfo .a k).toWord = errWord 1 k.toNat 0 0 0 0 :=
  slotField_toNat k ▸ ErrFields.toWord_eq_errWord (slotInfo .a k)

theorem tagsInfo_toWord (k : SlotNo) (expected actual : Tags) :
    (tagsInfo .a k expected actual).toWord = errWord 1 k.toNat 0 0 expected.number actual.number := by
  rw [← slotField_toNat, ← Tags.toBits_toNat, ← Tags.toBits_toNat]
  exact ErrFields.toWord_eq_errWord (tagsInfo .a k expected actual)

theorem tableInfo_toWord : ({ operand := .table } : ErrFields).toWord = errWord 6 0 0 0 0 0 :=
  ErrFields.toWord_eq_errWord { operand := .table }

/-! The numbers of the tags a failing check expects: one tag set or cleared. -/

theorem Tags.number_withNtt_false {t : Tags} (h : t.ntt = true) : (t.withNtt false).number = t.number - 1 := by
  simp only [number, withNtt, h, Bool.toNat_true, Bool.toNat_false]
  omega

theorem Tags.number_withNtt_true {t : Tags} (h : t.ntt = false) : (t.withNtt true).number = t.number + 1 := by
  simp [number, withNtt, h, add_comm 1, add_right_comm]

theorem Tags.number_withNeg_true {t : Tags} (h : t.neg = false) : (t.withNeg true).number = t.number + 4 := by
  simp [number, withNeg, h]

/-! ## The checks of a transform, in order (R175, R177, R247) -/

/-- The checks NTT and INTT share, in order, before the checks `rest`. -/
def State.transformChecks (s : State) (i : Instr) (ed : SlotNo) (target : Bool) (rest : List (Option Failure)) :
    List (Option Failure) :=
  s.slotFieldCheck i :: s.absentCheck .a ed :: s.tableCheck :: s.domainCheck ed target :: rest

theorem State.nttFailure_eq (s : State) (ed : SlotNo) :
    s.nttFailure ed = firstFailure (s.transformChecks (.ntt ed) ed true [s.negacyclicCheck ed]) := rfl

theorem State.inttFailure_eq (s : State) (ed : SlotNo) :
    s.inttFailure ed = firstFailure (s.transformChecks (.intt ed) ed false []) := rfl

theorem State.conclude_of_failure {s finished : State} {failure : Option Failure} {code : StatusCode} {info : ErrFields}
    (h : failure = some ⟨code, info⟩) (ne_ok : code ≠ .ok) :
    s.conclude failure finished = .next (s.failsWith code info.toWord) := by
  rw [h, conclude_some, complete_eq_failsWith s ne_ok]

section
variable {s finished : State} {i : Instr} {ed : SlotNo} {target : Bool} {rest : List (Option Failure)}

theorem conclude_transformChecks_absent (legal : i.wellFormed s.cfg.nslot = true)
    (absent : (s.slot ed.toNat).present = false) :
    s.conclude (firstFailure (s.transformChecks i ed target rest)) finished =
      .next (s.failsWith .elementAbsent (errWord 1 ed.toNat 0 0 0 0)) := by
  rw [← slotInfo_toWord]
  refine State.conclude_of_failure ?_ (by decide)
  simp [State.transformChecks, firstFailure, State.slotFieldCheck, State.absentCheck, check, State.element, legal,
    absent]

theorem conclude_transformChecks_tableAbsent (legal : i.wellFormed s.cfg.nslot = true)
    (present : (s.slot ed.toNat).present = true) (absent : s.zpresent = false) :
    s.conclude (firstFailure (s.transformChecks i ed target rest)) finished =
      .next (s.failsWith .tableAbsent (errWord 6 0 0 0 0 0)) := by
  rw [← tableInfo_toWord]
  refine State.conclude_of_failure ?_ (by decide)
  simp [State.transformChecks, firstFailure, State.slotFieldCheck, State.absentCheck, State.tableCheck, check,
    State.element, legal, present, absent]

theorem conclude_transformChecks_wrongDomain (legal : i.wellFormed s.cfg.nslot = true)
    (present : (s.slot ed.toNat).present = true) (table : s.zpresent = true)
    (domain : (s.slot ed.toNat).tags.ntt = target) :
    s.conclude (firstFailure (s.transformChecks i ed target rest)) finished =
      .next (s.failsWith .wrongDomain (errWord 1 ed.toNat 0 0 ((s.slot ed.toNat).tags.withNtt !target).number
        (s.slot ed.toNat).tags.number)) := by
  rw [← tagsInfo_toWord]
  refine State.conclude_of_failure ?_ (by decide)
  simp [State.transformChecks, firstFailure, State.slotFieldCheck, State.absentCheck, State.tableCheck,
    State.domainCheck, check, State.element, legal, present, table, domain]

theorem transformChecks_pass (legal : i.wellFormed s.cfg.nslot = true)
    (present : (s.slot ed.toNat).present = true) (table : s.zpresent = true)
    (domain : (s.slot ed.toNat).tags.ntt = !target) :
    firstFailure (s.transformChecks i ed target rest) = firstFailure rest := by
  simp [State.transformChecks, firstFailure, State.slotFieldCheck, State.absentCheck, State.tableCheck,
    State.domainCheck, check, State.element, legal, present, table, domain]

end

theorem ntt_wellFormed {nslot : Nat} {ed : SlotNo} (h : ed.toNat < nslot) : (Instr.ntt ed).wellFormed nslot = true := by
  simpa [Instr.wellFormed, slotsExist, Instr.checkedSlots] using h

theorem intt_wellFormed {nslot : Nat} {ed : SlotNo} (h : ed.toNat < nslot) : (Instr.intt ed).wellFormed nslot = true :=
  ntt_wellFormed h

/-! ## What a transform writes -/

/-- NTT past its guards (R175). -/
theorem exec_ntt_of_pass {s : State} {ed : SlotNo} (legal : ed.toNat < s.cfg.nslot)
    (present : (s.slot ed.toNat).present = true) (table : s.zpresent = true) (time : (s.slot ed.toNat).tags.ntt = false)
    (neg : (s.slot ed.toNat).tags.neg = true) :
    exec (.ntt ed) s = .next (s.setElement ed.toNat ((s.slot ed.toNat).tags.withNtt true)
      (forwardTransform s.cfg.q s.cfg.logN s.zetas (s.slot ed.toNat).values)).completeOk := by
  have pass : s.nttFailure ed = none := by
    rw [State.nttFailure_eq, transformChecks_pass (target := true) (ntt_wellFormed legal) present table time]
    simp [firstFailure, State.negacyclicCheck, check, State.element, neg]
  rw [exec, execNtt, pass, State.conclude_none, State.element]

/-- INTT past its guards (R177). -/
theorem exec_intt_of_pass {s : State} {ed : SlotNo} (legal : ed.toNat < s.cfg.nslot)
    (present : (s.slot ed.toNat).present = true) (table : s.zpresent = true)
    (frequency : (s.slot ed.toNat).tags.ntt = true) :
    exec (.intt ed) s = .next (s.setElement ed.toNat ((s.slot ed.toNat).tags.withNtt false)
      (inverseTransform s.cfg.q s.cfg.logN s.zetas (s.slot ed.toNat).values)).completeOk := by
  have pass : s.inttFailure ed = none := by
    rw [State.inttFailure_eq, transformChecks_pass (target := false) (intt_wellFormed legal) present table frequency,
      firstFailure]
  rw [exec, execIntt, pass, State.conclude_none, State.element]

theorem State.Inv.lt_length {s : State} (hs : s.Inv) {k : Nat} (hk : k < s.cfg.nslot) : k < s.mem.slots.length := by
  obtain ⟨count, -⟩ := Memory.wf_iff.mp hs.memory
  omega

theorem State.slot_setElement_completeOk {s : State} (hs : s.Inv) {k : Nat} (hk : k < s.cfg.nslot) (tags : Tags)
    (values : List Int) :
    (s.setElement k tags values).completeOk.slot k = { present := true, tags := tags, coeffs := values.map pattern } :=
  s.slot_setElement_same (hs.lt_length hk) tags values

theorem State.completeOk_completedOk {s u : State} (h : u.sticky = s.sticky) : CompletedOk s u.completeOk :=
  ⟨rfl, u.completeOk_errinfo, u.completeOk_sticky.trans h⟩

/-- Centred values are read back from the slot they are stored in (R135). -/
theorem values_map_pattern {q : Nat} (hq : q < 2 ^ 31) {values : List Int} (centred : ∀ v ∈ values, Centred q v)
    (present : Bool) (tags : Tags) :
    Slot.values { present := present, tags := tags, coeffs := values.map pattern } = values := by
  rw [Slot.values, List.map_map]
  exact (List.map_congr_left fun v hv => s64_pattern_of_centred hq (centred v hv)).trans (List.map_id values)

theorem map_pattern_values (e : Slot) : e.values.map pattern = e.coeffs := by
  rw [Slot.values, List.map_map]
  exact (List.map_congr_left fun p _ => pattern_s64 p).trans (List.map_id e.coeffs)

/-- A slot is its PRESENT bit, its tags and the values of its coefficients. -/
theorem Slot.eq_of_values {e e' : Slot} (present : e.present = e'.present) (tags : e.tags = e'.tags)
    (values : e.values = e'.values) : e = e' := by
  have coeffs := congrArg (List.map pattern) values
  rw [map_pattern_values, map_pattern_values] at coeffs
  exact Slot.mk.injEq .. ▸ ⟨present, tags, coeffs⟩

/-- In canonical storage the coefficients 0 … N − 1 are all values of a slot. -/
theorem values_eq_of_coeff_eq {s t : State} (hs : s.Inv) (ht : t.Inv) (cfg : t.cfg = s.cfg) {k : Nat}
    (h : ∀ j < s.cfg.n, t.coeff k j = s.coeff k j) : (t.slot k).values = (s.slot k).values := by
  have length := s.slot_values_length hs.memory k
  refine List.ext_getElem (by rw [t.slot_values_length ht.memory, cfg, length]) fun j hj hj' => ?_
  have same := h j (length ▸ hj')
  rwa [State.coeff, State.coeff, List.getD_eq_getElem _ _ hj, List.getD_eq_getElem _ _ hj'] at same

/-- A command on slot ed that puts centred values there and completes OK. -/
theorem setElement_result {s : State} {i : Instr} {ed : SlotNo} {tags : Tags} {values : List Int} (hs : s.Inv)
    (legal : ed.toNat < s.cfg.nslot) (dest : slotDest i = some ed)
    (h : exec i s = .next (s.setElement ed.toNat tags values).completeOk)
    (centred : ∀ v ∈ values, Centred s.cfg.q v) :
    ∃ t, exec i s = .next t ∧ (t.slot ed.toNat).values = values ∧
      (∀ v ∈ (t.slot ed.toNat).values, Centred s.cfg.q v) ∧ (t.slot ed.toNat).present = true ∧
      (t.slot ed.toNat).tags = tags ∧ SlotFrame (fun k => k = ed.toNat) s t ∧ CompletedOk s t := by
  have slot := s.slot_setElement_completeOk hs legal tags values
  have stored := values_map_pattern hs.valid.q_lt centred true tags
  rw [← slot] at stored
  exact ⟨_, h, stored, stored.symm ▸ centred, slot ▸ rfl, slot ▸ rfl, exec_slotFrame_of_slotDest dest h,
    State.completeOk_completedOk rfl⟩

/-- Every coefficient of a slot is written by NTT, since LOGN is at least 1 (R5). -/
theorem State.Inv.forwardTransform_centred {s : State} (hs : s.Inv) (k : Nat) :
    ∀ v ∈ forwardTransform s.cfg.q s.cfg.logN s.zetas (s.slot k).values, Centred s.cfg.q v :=
  Machine.forwardTransform_centred hs.valid.q_odd hs.valid.logN_pos _ (s.slot_values_length hs.memory k)

theorem State.coeff_eq (s : State) (k j : Nat) : s.coeff k j = (s.slot k).values.getD j 0 := rfl

/-- A value of a list of centred values is the centred representative of what it is congruent to. -/
theorem isCentredOf_getD {q : Nat} {values : List Int} (centred : ∀ v ∈ values, Centred q v) {j : Nat}
    (hj : j < values.length) {x : Int} (h : residueAt q values j = (x : ZMod q)) :
    IsCentredOf q x (values.getD j 0) := by
  refine ⟨?_, (ZMod.intCast_eq_intCast_iff ..).mp h⟩
  rw [List.getD_eq_getElem _ _ hj]
  exact centred _ (List.getElem_mem hj)

end Sys2Proof.Machine

namespace Sys2Proof
open Machine

/-- Settles O21: of the writes of a command, only elements and the output run of MATVEC belong to these commands. -/
theorem slotCommandsFrame : Obligations.SlotCommandsFrame :=
  ⟨fun _ _ _ _ hd h => exec_slotFrame_of_slotDest hd h, fun _ _ _ _ h => exec_matvec_slotFrame h⟩

/-- Settles O36: the first failing check ends the command; past the checks, the last pass writes every coefficient. -/
theorem nttGuardsAndResult : Obligations.NttGuardsAndResult := by
  intro s ed hs legal e
  have wf := ntt_wellFormed legal
  refine ⟨conclude_transformChecks_absent wf, conclude_transformChecks_tableAbsent wf,
    fun present table frequency => ?_, fun present table time cyclic => ?_, fun present table time neg => ?_⟩
  · rw [← Tags.number_withNtt_false frequency]
    exact conclude_transformChecks_wrongDomain wf present table frequency
  · rw [← Tags.number_withNeg_true cyclic, ← tagsInfo_toWord]
    refine State.conclude_of_failure ?_ (by decide)
    rw [State.nttFailure_eq, transformChecks_pass (target := true) wf present table time]
    simp [firstFailure, State.negacyclicCheck, check, State.element, e, cyclic]
  · have tags : e.tags.withNtt true = { ntt := true, mont := e.tags.mont, neg := true } := by rw [Tags.withNtt, neg]
    have h := exec_ntt_of_pass legal present table time neg
    rw [tags] at h
    exact setElement_result hs legal rfl h (hs.forwardTransform_centred ed.toNat)

/-- Settles O37: the first failing check ends the command; past the checks, every coefficient is multiplied by f. -/
theorem inttGuardsAndResult : Obligations.InttGuardsAndResult := by
  intro s ed hs legal e
  have wf := intt_wellFormed legal
  refine ⟨conclude_transformChecks_absent wf, conclude_transformChecks_tableAbsent wf,
    fun present table time => ?_, fun present table frequency => ?_⟩
  · rw [← Tags.number_withNtt_true time]
    exact conclude_transformChecks_wrongDomain wf present table time
  · exact setElement_result hs legal rfl (exec_intt_of_pass legal present table frequency)
      (inverseTransform_centred hs.valid.q_odd _ _ _)

/-- Settles O41: the closed form of the forward transform, read back from the slot. -/
theorem nttEvaluatesAtOddPowers : Obligations.NttEvaluatesAtOddPowers := by
  intro s ed zeta hs legal root power table present time neg
  have centred := hs.forwardTransform_centred ed.toNat
  have length := s.slot_values_length hs.memory ed.toNat
  obtain ⟨t, h, values, -⟩ := setElement_result hs legal rfl (exec_ntt_of_pass legal present table time neg) centred
  refine ⟨t, h, fun i hi => ?_⟩
  rw [State.coeff_eq, values]
  refine isCentredOf_getD centred (by rwa [forwardTransform_length, length]) ?_
  rw [residueAt_forwardTransform (power.rootTable hs.valid.prime.one_lt root) length hi]
  push_cast
  rfl

/-- Settles O42: the inverse transform of the evaluations gives each coefficient back modulo Q, and centred. -/
theorem nttRoundTrip : Obligations.NttRoundTrip := by
  intro s ed zeta hs legal root power table present time neg
  have length := s.slot_values_length hs.memory ed.toNat
  obtain ⟨t, ht, values, -, tpresent, ttags, frame, -⟩ := setElement_result hs legal rfl
    (exec_ntt_of_pass legal present table time neg) (hs.forwardTransform_centred ed.toNat)
  have cfg : t.cfg = s.cfg := frame.control.cfg
  have zetas : t.zetas = s.zetas := congrArg (List.map s64) frame.zeta
  have frequency : (t.slot ed.toNat).tags.ntt = true := by rw [ttags, Tags.withNtt]
  have intt := exec_intt_of_pass (cfg ▸ legal) tpresent (frame.zpresent.trans table) frequency
  rw [cfg, zetas, values] at intt
  have centred := inverseTransform_centred hs.valid.q_odd s.cfg.logN s.zetas
    (forwardTransform s.cfg.q s.cfg.logN s.zetas (s.slot ed.toNat).values)
  obtain ⟨u, hu, uvalues, -, upresent, utags, -⟩ :=
    setElement_result (hs.exec ht) (cfg ▸ legal) rfl intt (by rwa [cfg])
  have tags : (u.slot ed.toNat).tags = (s.slot ed.toNat).tags := by
    rw [utags, ttags, Tags.withNtt, Tags.withNtt, ← time]
  have back : ∀ j < s.cfg.n, IsCentredOf s.cfg.q (s.coeff ed.toNat j) (u.coeff ed.toNat j) := by
    intro j hj
    rw [State.coeff_eq u, uvalues]
    exact isCentredOf_getD centred (by simpa [length] using hj) <|
      residueAt_inverseTransform_forwardTransform (power.rootTable hs.valid.prime.one_lt root) hs.valid.prime
        hs.valid.q_odd length hj
  refine ⟨t, u, ht, hu, tags, back, fun all => Slot.eq_of_values (upresent.trans present.symm) tags ?_⟩
  refine values_eq_of_coeff_eq hs ((hs.exec ht).exec hu) ((exec_cfg hu).trans cfg) fun j hj => ?_
  have own : IsCentredOf s.cfg.q (s.coeff ed.toNat j) (s.coeff ed.toNat j) := ⟨all j hj, Int.ModEq.rfl⟩
  rw [(back j hj).eq_centeredReduce hs.valid.q_odd, ← own.eq_centeredReduce hs.valid.q_odd]

end Sys2Proof
end

section
/-!
The pointwise commands: their checks in order (R200, R246) and what they write (R201 to R205); settles O44 and O45.
-/
namespace Sys2Proof.Machine

/-! ## The context of a check, whatever the operand (R245, R246) -/

theorem slotInfo_toWord_eq (o : ErrOperand) (k : SlotNo) :
    (slotInfo o k).toWord = errWord o.toBits.toNat k.toNat 0 0 0 0 :=
  slotField_toNat k ▸ ErrFields.toWord_eq_errWord (slotInfo o k)

theorem tagsInfo_toWord_eq (o : ErrOperand) (k : SlotNo) (expected actual : Tags) :
    (tagsInfo o k expected actual).toWord = errWord o.toBits.toNat k.toNat 0 0 expected.number actual.number := by
  rw [← slotField_toNat, ← Tags.toBits_toNat, ← Tags.toBits_toNat]
  exact ErrFields.toWord_eq_errWord (tagsInfo o k expected actual)

theorem nttFormInfo_toWord (o : ErrOperand) (k : SlotNo) {t : Tags} (h : t.ntt = false) :
    (tagsInfo o k (t.withNtt true) t).toWord = errWord o.toBits.toNat k.toNat 0 0 (t.number + 1) t.number := by
  rw [tagsInfo_toWord_eq, Tags.number_withNtt_true h]

theorem montgomeryInfo_toWord (o : ErrOperand) (k : SlotNo) {t : Tags} (h : t.ntt = true) (mont : Bool) :
    (tagsInfo o k (t.withMont mont) t).toWord =
      errWord o.toBits.toNat k.toNat 0 0 (Tags.number { ntt := true, mont := mont, neg := t.neg }) t.number := by
  rw [tagsInfo_toWord_eq, Tags.withMont, h]

/-! ## The checks of a pointwise command, one by one (R200) -/

section
variable {s : State} {o : ErrOperand} {k ea eb : SlotNo}

theorem State.slotFieldCheck_of_wellFormed {i : Instr} (h : i.wellFormed s.cfg.nslot = true) :
    s.slotFieldCheck i = none := by simp [slotFieldCheck, h]

theorem State.absentCheck_of_present (h : (s.slot k.toNat).present = true) : s.absentCheck o k = none := by
  simp [absentCheck, element, h]

theorem State.absentCheck_of_absent (h : (s.slot k.toNat).present = false) :
    s.absentCheck o k = some ⟨.elementAbsent, slotInfo o k⟩ := by simp [absentCheck, element, h]

theorem State.nttFormCheck_of_frequency (h : (s.slot k.toNat).tags.ntt = true) : s.nttFormCheck o k = none := by
  simp [nttFormCheck, element, h]

theorem State.nttFormCheck_of_time (h : (s.slot k.toNat).tags.ntt = false) :
    s.nttFormCheck o k =
      some ⟨.notNttForm, tagsInfo o k ((s.slot k.toNat).tags.withNtt true) (s.slot k.toNat).tags⟩ := by
  simp [nttFormCheck, element, h]

theorem State.montgomeryCheck_of_eq (h : (s.slot ea.toNat).tags.mont = (s.slot eb.toNat).tags.mont) :
    s.montgomeryCheck ea eb = none := by simp [montgomeryCheck, element, h]

theorem State.montgomeryCheck_of_ne (h : (s.slot ea.toNat).tags.mont ≠ (s.slot eb.toNat).tags.mont) :
    s.montgomeryCheck ea eb = some ⟨.montgomeryMismatch,
      tagsInfo .b eb ((s.slot eb.toNat).tags.withMont (s.slot ea.toNat).tags.mont) (s.slot eb.toNat).tags⟩ := by
  simp [montgomeryCheck, element, h]

/-- The operands of a pointwise command pass its five checks (R200). -/
structure PointwiseOk (s : State) (ea eb : SlotNo) : Prop where
  presentA : (s.slot ea.toNat).present = true
  presentB : (s.slot eb.toNat).present = true
  nttA : (s.slot ea.toNat).tags.ntt = true
  nttB : (s.slot eb.toNat).tags.ntt = true
  mont : (s.slot ea.toNat).tags.mont = (s.slot eb.toNat).tags.mont

theorem PointwiseOk.pointwiseFailure_eq_none {i : Instr} (h : PointwiseOk s ea eb)
    (legal : i.wellFormed s.cfg.nslot = true) : s.pointwiseFailure i ea eb = none := by
  simp [State.pointwiseFailure, firstFailure_eq_none, State.slotFieldCheck_of_wellFormed legal,
    State.absentCheck_of_present h.presentA, State.absentCheck_of_present h.presentB,
    State.nttFormCheck_of_frequency h.nttA, State.nttFormCheck_of_frequency h.nttB, State.montgomeryCheck_of_eq h.mont]

end

/-! ## The three commands as one -/

theorem getD_zipWith {f : Int → Int → Int} {a b : List Int} {x : Nat} (ha : x < a.length) (hb : x < b.length) :
    (List.zipWith f a b).getD x 0 = f (a.getD x 0) (b.getD x 0) := by
  simp [List.getD_eq_getElem?_getD, ha, hb]

/-- The operation on integers whose centred representative a pointwise command stores (R201 to R203). -/
inductive PointwiseOp (ed ea eb : SlotNo) : Instr → (Int → Int → Int) → Prop where
  | add : PointwiseOp ed ea eb (.pwadd ed ea eb) (fun x y => x + y)
  | sub : PointwiseOp ed ea eb (.pwsub ed ea eb) (fun x y => x - y)
  | mul : PointwiseOp ed ea eb (.pwmul ed ea eb) (fun x y => x * y)

section
variable {s : State} {ed ea eb : SlotNo} {i : Instr} {g : Int → Int → Int}

theorem PointwiseOp.exec_eq (h : PointwiseOp ed ea eb i g) (s : State) :
    exec i s = s.conclude (s.pointwiseFailure i ea eb)
      (s.pointwise (fun x y => centeredReduce s.cfg.q (g x y)) ed ea eb) := by
  cases h <;> rfl

theorem PointwiseOp.slotDest_eq (h : PointwiseOp ed ea eb i g) : slotDest i = some ed := by
  cases h <;> rfl

theorem PointwiseOp.wellFormed (h : PointwiseOp ed ea eb i g) {nslot : Nat} (hd : ed.toNat < nslot)
    (ha : ea.toNat < nslot) (hb : eb.toNat < nslot) : i.wellFormed nslot = true := by
  cases h <;> simp [Instr.wellFormed, slotsExist, Instr.checkedSlots, hd, ha, hb]

theorem PointwiseOp.exec_of_failure (h : PointwiseOp ed ea eb i g) {code : StatusCode} {info : ErrFields} {w : Word}
    (failure : s.pointwiseFailure i ea eb = some ⟨code, info⟩) (ne_ok : code ≠ .ok) (word : info.toWord = w) :
    exec i s = .next (s.failsWith code w) := by
  rw [h.exec_eq, ← word]
  exact State.conclude_of_failure failure ne_ok

theorem PointwiseOp.exec_of_pass (h : PointwiseOp ed ea eb i g) (legal : i.wellFormed s.cfg.nslot = true)
    (pass : PointwiseOk s ea eb) :
    exec i s = .next (s.pointwise (fun x y => centeredReduce s.cfg.q (g x y)) ed ea eb).completeOk := by
  rw [h.exec_eq, pass.pointwiseFailure_eq_none legal, State.conclude_none]

/-- What a pointwise command past its checks leaves (R201 to R205). -/
theorem PointwiseOp.result (h : PointwiseOp ed ea eb i g) (hs : s.Inv) (hd : ed.toNat < s.cfg.nslot)
    (ha : ea.toNat < s.cfg.nslot) (hb : eb.toNat < s.cfg.nslot) (pass : PointwiseOk s ea eb) :
    ∃ t, exec i s = .next t ∧
      (∀ x < s.cfg.n, IsCentredOf s.cfg.q (g (s.coeff ea.toNat x) (s.coeff eb.toNat x)) (t.coeff ed.toNat x)) ∧
      (t.slot ed.toNat).coeffs.length = s.cfg.n ∧ (t.slot ed.toNat).present = true ∧
      (t.slot ed.toNat).tags = resultTags (s.slot ea.toNat).tags (s.slot eb.toNat).tags ∧
      SlotFrame (fun k => k = ed.toNat) s t ∧ CompletedOk s t := by
  have odd := hs.valid.q_odd
  have lengthA := s.slot_values_length hs.memory ea.toNat
  have lengthB := s.slot_values_length hs.memory eb.toNat
  obtain ⟨t, ht, values, -, present, tags, frame, completed⟩ :=
    setElement_result hs hd h.slotDest_eq (h.exec_of_pass (h.wellFormed hd ha hb) pass)
      (forall_mem_zipWith (fun _ _ => centeredReduce_centred odd _) _ _)
  refine ⟨t, ht, fun x hx => ?_, ?_, present, tags, frame, completed⟩
  · rw [State.coeff_eq t, values, State.element, State.element, getD_zipWith (by omega) (by omega)]
    exact centeredReduce_isCentredOf odd _
  · exact (t.slot_coeffs_length (hs.exec ht).memory _).trans (congrArg Config.n frame.control.cfg)

end

end Sys2Proof.Machine

namespace Sys2Proof
open Machine

/-- Settles O44: each clause gives the checks before it a pass and its own a failure. -/
theorem pointwiseGuards : Obligations.PointwiseGuards := by
  intro s ed ea eb hd ha hb i hi a b
  obtain ⟨g, op⟩ : ∃ g, PointwiseOp ed ea eb i g := by
    simp only [List.mem_cons, List.not_mem_nil, or_false] at hi
    obtain rfl | rfl | rfl := hi
    · exact ⟨_, .add⟩
    · exact ⟨_, .sub⟩
    · exact ⟨_, .mul⟩
  have legal := State.slotFieldCheck_of_wellFormed (op.wellFormed hd ha hb)
  refine ⟨fun absA => ?_, fun preA absB => ?_, fun preA preB timeA => ?_, fun preA preB nttA timeB => ?_,
    fun preA preB nttA nttB ne => ?_, fun preA preB nttA nttB mont => ?_⟩
  · refine op.exec_of_failure ?_ (by decide) (slotInfo_toWord_eq .a ea)
    rw [State.pointwiseFailure, legal, State.absentCheck_of_absent absA]
    rfl
  · refine op.exec_of_failure ?_ (by decide) (slotInfo_toWord_eq .b eb)
    rw [State.pointwiseFailure, legal, State.absentCheck_of_present preA, State.absentCheck_of_absent absB]
    rfl
  · refine op.exec_of_failure ?_ (by decide) (nttFormInfo_toWord .a ea timeA)
    rw [State.pointwiseFailure, legal, State.absentCheck_of_present preA, State.absentCheck_of_present preB,
      State.nttFormCheck_of_time timeA]
    rfl
  · refine op.exec_of_failure ?_ (by decide) (nttFormInfo_toWord .b eb timeB)
    rw [State.pointwiseFailure, legal, State.absentCheck_of_present preA, State.absentCheck_of_present preB,
      State.nttFormCheck_of_frequency nttA, State.nttFormCheck_of_time timeB]
    rfl
  · refine op.exec_of_failure ?_ (by decide) (montgomeryInfo_toWord .b eb nttB a.tags.mont)
    rw [State.pointwiseFailure, legal, State.absentCheck_of_present preA, State.absentCheck_of_present preB,
      State.nttFormCheck_of_frequency nttA, State.nttFormCheck_of_frequency nttB, State.montgomeryCheck_of_ne ne]
    rfl
  · exact ⟨_, op.exec_of_pass (op.wellFormed hd ha hb) ⟨preA, preB, nttA, nttB, mont⟩, State.completeOk_completedOk rfl⟩

/-- Settles O45: one result for the three operations, each the centred representative of its integer operation. -/
theorem pointwiseResults : Obligations.PointwiseResults := by
  intro s ed ea eb hs hd ha hb preA preB nttA nttB mont p hp
  have op : PointwiseOp ed ea eb p.1 p.2 := by
    simp only [List.mem_cons, List.not_mem_nil, or_false] at hp
    obtain rfl | rfl | rfl := hp
    · exact .add
    · exact .sub
    · exact .mul
  exact op.result hs hd ha hb ⟨preA, preB, nttA, nttB, mont⟩

end Sys2Proof
end

section
/-!
The negacyclic product modulo X^N + 1 and Q: at the roots of X^N + 1 a product of values is the value of the product, so
NTT, PWMUL and INTT compute it (R211); settles O43.
-/
namespace Sys2Proof.Machine

/-! ## The negacyclic product (R211) -/

section
variable {R : Type} [CommRing R]

/-- What a term v · X^k adds to coefficient `m` modulo X^n + 1, where X^n stands for −1. -/
def wrapped (n m k : Nat) (v : R) : R := if k = m then v else if k = m + n then -v else 0

/-- Coefficient `m` of the product modulo X^n + 1. -/
def negacyclicCoeff (f g : Nat → R) (n m : Nat) : R :=
  ∑ i ∈ Finset.range n, ∑ j ∈ Finset.range n, wrapped n m (i + j) (f i * g j)

/-- A term of degree k < 2n lands on one power below n, negated when it wraps. -/
theorem sum_wrapped_mul_pow {n k : Nat} (hk : k < 2 * n) {x : R} (root : x ^ n = -1) (v : R) :
    ∑ m ∈ Finset.range n, wrapped n m k v * x ^ m = v * x ^ k := by
  obtain lt | ge := Nat.lt_or_ge k n
  · rw [Finset.sum_eq_single_of_mem k (Finset.mem_range.mpr lt) fun m _ hm => ?_, wrapped, if_pos rfl]
    rw [wrapped, if_neg hm.symm, if_neg (by omega), zero_mul]
  · obtain ⟨r, rfl⟩ := Nat.exists_eq_add_of_le' ge
    rw [Finset.sum_eq_single_of_mem r (Finset.mem_range.mpr (by omega)) fun m hm ne => ?_, wrapped, if_neg (by omega),
      if_pos rfl, pow_add, root]
    · ring
    · have lt := Finset.mem_range.mp hm
      rw [wrapped, if_neg (by omega), if_neg (by omega), zero_mul]

/-- At a root of X^n + 1 the product of two values is the value of the negacyclic product. -/
theorem sum_mul_sum_eq_negacyclic (f g : Nat → R) {n : Nat} {x : R} (root : x ^ n = -1) :
    (∑ i ∈ Finset.range n, f i * x ^ i) * ∑ j ∈ Finset.range n, g j * x ^ j =
      ∑ m ∈ Finset.range n, negacyclicCoeff f g n m * x ^ m := by
  have term : ∀ i ∈ Finset.range n, ∀ j ∈ Finset.range n, f i * x ^ i * (g j * x ^ j) =
      ∑ m ∈ Finset.range n, wrapped n m (i + j) (f i * g j) * x ^ m := by
    intro i hi j hj
    have bound : i + j < 2 * n := by
      rw [Finset.mem_range] at hi hj
      omega
    rw [sum_wrapped_mul_pow bound root]
    ring
  calc (∑ i ∈ Finset.range n, f i * x ^ i) * ∑ j ∈ Finset.range n, g j * x ^ j
      = ∑ i ∈ Finset.range n, ∑ j ∈ Finset.range n, f i * x ^ i * (g j * x ^ j) := Finset.sum_mul_sum ..
    _ = ∑ i ∈ Finset.range n, ∑ j ∈ Finset.range n, ∑ m ∈ Finset.range n, wrapped n m (i + j) (f i * g j) * x ^ m :=
        Finset.sum_congr rfl fun i hi => Finset.sum_congr rfl (term i hi)
    _ = ∑ i ∈ Finset.range n, ∑ m ∈ Finset.range n, ∑ j ∈ Finset.range n, wrapped n m (i + j) (f i * g j) * x ^ m :=
        Finset.sum_congr rfl fun i _ => Finset.sum_comm
    _ = ∑ m ∈ Finset.range n, negacyclicCoeff f g n m * x ^ m := by
        simp only [negacyclicCoeff, Finset.sum_mul]
        exact Finset.sum_comm

end

theorem cast_negacyclicCoeff (q : Nat) (f g : Nat → Int) (n m : Nat) :
    ((negacyclicCoeff f g n m : Int) : ZMod q) =
      negacyclicCoeff (fun i => (f i : ZMod q)) (fun j => (g j : ZMod q)) n m := by
  simp only [negacyclicCoeff, wrapped, Int.cast_sum, apply_ite (Int.cast : Int → ZMod q), Int.cast_neg, Int.cast_mul,
    Int.cast_zero]

/-! ## Slots that hold evaluations (R174) -/

/-- A state in which both transforms run on a table of a root zeta^N ≡ −1 (R154, R178). -/
structure PowerTableLoaded (c : Config) (zeta : Int) (s : State) : Prop where
  inv : s.Inv
  cfg : s.cfg = c
  root : zeta ^ c.n ≡ -1 [ZMOD c.q]
  power : IsPowerTable c zeta s.zetas
  zpresent : s.zpresent = true

/-- A present slot with tags (1,0,1) that holds, modulo Q, the values of the polynomial with coefficients `f` at the
odd powers of zeta, in bit-reversed order. -/
structure HoldsEvaluations (c : Config) (zeta : Int) (f : Nat → Int) (e : Slot) : Prop where
  present : e.present = true
  tags : e.tags = { ntt := true, mont := false, neg := true }
  values : ∀ i < c.n, residueAt c.q e.values i =
    ∑ j ∈ Finset.range c.n, (f j : ZMod c.q) * (zeta : ZMod c.q) ^ ((2 * bitReverse i c.logN + 1) * j)

section
variable {c : Config} {zeta : Int} {s : State}

/-- Every command but ZGEN leaves the table (R71). -/
theorem PowerTableLoaded.of_exec {t : State} {i : Instr} (h : PowerTableLoaded c zeta s) (he : exec i s = .next t)
    (hi : ∀ rs1, i ≠ .zgen rs1) : PowerTableLoaded c zeta t := by
  obtain ⟨zpresent, zeta_eq⟩ := exec_table_eq he hi
  have zetas : t.zetas = s.zetas := congrArg (List.map s64) zeta_eq
  exact ⟨h.inv.exec he, (exec_cfg he).trans h.cfg, h.root, zetas ▸ h.power, zpresent.trans h.zpresent⟩

theorem PowerTableLoaded.rootTable (h : PowerTableLoaded c zeta s) : RootTable c.q c.logN zeta s.zetas :=
  h.power.rootTable (h.cfg ▸ h.inv.valid.prime.one_lt) h.root

/-- NTT turns the coefficients of a slot with tags (0,0,1) into evaluations (R174, R175). -/
theorem PowerTableLoaded.exec_ntt (h : PowerTableLoaded c zeta s) {k : SlotNo} (legal : k.toNat < c.nslot)
    (present : (s.slot k.toNat).present = true)
    (tags : (s.slot k.toNat).tags = { ntt := false, mont := false, neg := true }) :
    ∃ t, exec (.ntt k) s = .next t ∧ PowerTableLoaded c zeta t ∧
      HoldsEvaluations c zeta (s.coeff k.toNat) (t.slot k.toNat) ∧ ∀ k', k' ≠ k.toNat → t.slot k' = s.slot k' := by
  obtain rfl := h.cfg
  have time : (s.slot k.toNat).tags.ntt = false := by rw [tags]
  have neg : (s.slot k.toNat).tags.neg = true := by rw [tags]
  obtain ⟨t, ht, values, -, tpresent, ttags, frame, -⟩ := setElement_result h.inv legal rfl
    (exec_ntt_of_pass legal present h.zpresent time neg) (h.inv.forwardTransform_centred k.toNat)
  refine ⟨t, ht, h.of_exec ht nofun, ⟨tpresent, by rw [ttags, tags, Tags.withNtt], fun i hi => ?_⟩, frame.slots⟩
  rw [values]
  exact residueAt_forwardTransform h.rootTable (s.slot_values_length h.inv.memory k.toNat) hi

/-- PWMUL of evaluations gives the evaluations of the negacyclic product (R203, R211). -/
theorem PowerTableLoaded.exec_pwmul (h : PowerTableLoaded c zeta s) {d a b : SlotNo} (hd : d.toNat < c.nslot)
    (ha : a.toNat < c.nslot) (hb : b.toNat < c.nslot) {f g : Nat → Int}
    (evalA : HoldsEvaluations c zeta f (s.slot a.toNat)) (evalB : HoldsEvaluations c zeta g (s.slot b.toNat)) :
    ∃ t, exec (.pwmul d a b) s = .next t ∧ PowerTableLoaded c zeta t ∧
      HoldsEvaluations c zeta (negacyclicCoeff f g c.n) (t.slot d.toNat) := by
  obtain rfl := h.cfg
  have pass : PointwiseOk s a b := by
    constructor <;> simp only [evalA.present, evalB.present, evalA.tags, evalB.tags]
  obtain ⟨t, ht, product, -, present, tags, -⟩ := (PointwiseOp.mul (ed := d)).result h.inv hd ha hb pass
  have tagsD : (t.slot d.toNat).tags = { ntt := true, mont := false, neg := true } := by
    rw [tags, evalA.tags, evalB.tags, resultTags, Bool.and_self]
  refine ⟨t, ht, h.of_exec ht nofun, present, tagsD, fun i hi => ?_⟩
  have mul : residueAt s.cfg.q (t.slot d.toNat).values i =
      residueAt s.cfg.q (s.slot a.toNat).values i * residueAt s.cfg.q (s.slot b.toNat).values i :=
    ((ZMod.intCast_eq_intCast_iff ..).mpr (product i hi).2).trans (Int.cast_mul ..)
  have root : ((zeta : ZMod s.cfg.q) ^ (2 * bitReverse i s.cfg.logN + 1)) ^ s.cfg.n = -1 := by
    rw [pow_right_comm, Config.n, h.rootTable.root]
    exact (odd_two_mul_add_one _).neg_one_pow
  simp only [mul, evalA.values i hi, evalB.values i hi, pow_mul, sum_mul_sum_eq_negacyclic _ _ root,
    cast_negacyclicCoeff]

/-- INTT gives the coefficients back, centred, with tags (0,0,1) (R177, R179). -/
theorem PowerTableLoaded.exec_intt (h : PowerTableLoaded c zeta s) {k : SlotNo} (legal : k.toNat < c.nslot)
    {f : Nat → Int} (holds : HoldsEvaluations c zeta f (s.slot k.toNat)) :
    ∃ t, exec (.intt k) s = .next t ∧ (t.slot k.toNat).present = true ∧
      (t.slot k.toNat).tags = { ntt := false, mont := false, neg := true } ∧
      ∀ m < c.n, IsCentredOf c.q (f m) (t.coeff k.toNat m) := by
  obtain rfl := h.cfg
  have frequency : (s.slot k.toNat).tags.ntt = true := by rw [holds.tags]
  have odd := h.inv.valid.q_odd
  have length := s.slot_values_length h.inv.memory k.toNat
  have centred := inverseTransform_centred odd s.cfg.logN s.zetas (s.slot k.toNat).values
  obtain ⟨t, ht, values, -, present, tags, -⟩ := setElement_result h.inv legal rfl
    (exec_intt_of_pass legal holds.present h.zpresent frequency) centred
  refine ⟨t, ht, present, by rw [tags, holds.tags, Tags.withNtt], fun m hm => ?_⟩
  rw [State.coeff_eq, values]
  exact isCentredOf_getD centred (by rwa [inverseTransform_length, length]) <|
    residueAt_inverseTransform h.rootTable h.inv.valid.prime odd length holds.values hm

end

end Sys2Proof.Machine

namespace Sys2Proof
open Machine

/-- Settles O43: two slots of evaluations, their product, and the inverse transform of the product. -/
theorem nttConvolution : Obligations.NttConvolution := by
  intro s a b d zeta hs ha hb hd ne root power table preA preB tagsA tagsB
  have start : PowerTableLoaded s.cfg zeta s := ⟨hs, rfl, root, power, table⟩
  have apart : b.toNat ≠ a.toNat := fun h => ne (BitVec.eq_of_toNat_eq h.symm)
  obtain ⟨s₁, h₁, loaded₁, evalA, kept₁⟩ := start.exec_ntt ha preA tagsA
  have slotB : s₁.slot b.toNat = s.slot b.toNat := kept₁ _ apart
  obtain ⟨s₂, h₂, loaded₂, evalB, kept₂⟩ := loaded₁.exec_ntt hb (slotB ▸ preB) (slotB ▸ tagsB)
  have coeffB : s₁.coeff b.toNat = s.coeff b.toNat := by
    funext j
    rw [State.coeff_eq, slotB, State.coeff_eq]
  rw [coeffB] at evalB
  rw [← kept₂ _ apart.symm] at evalA
  obtain ⟨s₃, h₃, loaded₃, evalD⟩ := loaded₂.exec_pwmul hd ha hb evalA evalB
  obtain ⟨s₄, h₄, present, tags, product⟩ := loaded₃.exec_intt hd evalD
  exact ⟨s₁, s₂, s₃, s₄, h₁, h₂, h₃, h₄, present, tags, product⟩

end Sys2Proof
end

section
/-!
The checks of MATVEC in order: the shape of its runs (R207 checks 1 to 6), then its entries, matrix before vector (checks
7 and 8, R246, R247); settles O46 and O47.
-/
namespace Sys2Proof.Machine

/-! ## Runs of slots (R206) -/

theorem runsMeet_iff {base₁ len₁ base₂ len₂ : Nat} (pos₁ : 0 < len₁) (pos₂ : 0 < len₂) :
    runsMeet base₁ len₁ base₂ len₂ = true ↔ ∃ i < len₁, ∃ j < len₂, base₁ + i = base₂ + j := by
  rw [runsMeet, Bool.and_eq_true, decide_eq_true_iff, decide_eq_true_iff]
  constructor
  · rintro ⟨h₁, h₂⟩
    obtain le | le := Nat.le_total base₁ base₂
    · exact ⟨base₂ - base₁, by omega, 0, pos₂, by omega⟩
    · exact ⟨0, pos₁, base₁ - base₂, by omega, by omega⟩
  · rintro ⟨i, hi, j, hj, same⟩
    omega

/-- Row-major position (r, j) lies below the number of positions. -/
theorem rowMajor_lt {rows cols r j : Nat} (hr : r < rows) (hj : j < cols) : r * cols + j < rows * cols :=
  calc r * cols + j < (r + 1) * cols := by rw [Nat.succ_mul]; omega
    _ ≤ rows * cols := Nat.mul_le_mul_right cols hr

/-- Every number below rows · cols is the row-major position of one row and column. -/
theorem exists_rowMajor_iff {rows cols : Nat} {P : Nat → Prop} :
    (∃ m < rows * cols, P m) ↔ ∃ r < rows, ∃ j < cols, P (r * cols + j) := by
  constructor
  · rintro ⟨m, hm, h⟩
    have pos : 0 < cols := Nat.pos_of_lt_mul_left hm
    exact ⟨m / cols, (Nat.div_lt_iff_lt_mul pos).mpr hm, m % cols, Nat.mod_lt m pos, by rwa [Nat.div_add_mod']⟩
  · rintro ⟨r, hr, j, hj, h⟩
    exact ⟨_, rowMajor_lt hr hj, h⟩

theorem runsMeet_matrix_iff {base₁ len base rows cols : Nat} (len_pos : 0 < len) (rows_pos : 0 < rows)
    (cols_pos : 0 < cols) : runsMeet base₁ len base (rows * cols) = true ↔
      ∃ i < len, ∃ r < rows, ∃ j < cols, base₁ + i = base + r * cols + j := by
  simp only [runsMeet_iff len_pos (Nat.mul_pos rows_pos cols_pos), exists_rowMajor_iff, add_assoc]

/-! ## A list of checks, one by one (R247) -/

theorem firstFailure_cons_of_pass {bad : Bool} {code : StatusCode} {info : ErrFields} {rest : List (Option Failure)}
    {r : Option Failure} (pass : bad = false) (next : firstFailure rest = r) :
    firstFailure (check bad code info :: rest) = r := by rw [check_eq_none.mpr pass, ← next, firstFailure]

theorem firstFailure_cons_of_fail {bad : Bool} {code : StatusCode} {info : ErrFields} {rest : List (Option Failure)}
    (fail : bad = true) : firstFailure (check bad code info :: rest) = some ⟨code, info⟩ := by
  rw [check_eq_some.mpr ⟨fail, rfl⟩, firstFailure]

/-! ## How a failing MATVEC ends -/

section
variable {s : State} {ed eb : SlotNo}

theorem exec_matvec_of_failure {code : StatusCode} {info : ErrFields} {w : Word}
    (failure : s.matvecFailure ed eb = some ⟨code, info⟩) (ne_ok : code ≠ .ok) (word : info.toWord = w) :
    exec (.matvec ed eb) s = .next (s.failsWith code w) :=
  word ▸ State.conclude_of_failure failure ne_ok

theorem State.matvecFailure_of_shapeFailure {f : Failure} (h : s.shapeFailure ed eb = some f) :
    s.matvecFailure ed eb = some f := by rw [matvecFailure, h]

theorem operandInfo_toWord (o : ErrOperand) : ({ operand := o } : ErrFields).toWord = errWord o.toBits.toNat 0 0 0 0 0 :=
  ErrFields.toWord_eq_errWord { operand := o }

/-- Checks 3 to 6 of R207, on the runs of a matrix that is not empty. -/
def State.runChecks (s : State) (ed eb : SlotNo) : List (Option Failure) :=
  let size := s.mrows.toNat * s.mcols.toNat
  [check (decide (s.cfg.nslot < s.mbase.toNat + size)) .badShape { operand := .matrix },
   check (decide (s.cfg.nslot < eb.toNat + s.vlen.toNat)) .badShape { operand := .vector },
   check (decide (s.cfg.nslot < ed.toNat + s.mrows.toNat)) .badShape { operand := .output },
   check (runsMeet ed.toNat s.mrows.toNat s.mbase.toNat size || runsMeet ed.toNat s.mrows.toNat eb.toNat s.vlen.toNat)
     .badShape { operand := .output }]

theorem State.shapeFailure_of_nonempty (dims : s.mcols.toNat = s.vlen.toNat) (rows : s.mrows.toNat ≠ 0)
    (cols : s.mcols.toNat ≠ 0) : s.shapeFailure ed eb = firstFailure (s.runChecks ed eb) :=
  firstFailure_cons_of_pass (decide_eq_false (not_not.mpr dims)) <|
    firstFailure_cons_of_pass (decide_eq_false (not_or.mpr ⟨rows, cols⟩)) rfl

theorem MatvecShapeOk.rows_pos (h : MatvecShapeOk s ed eb) : 0 < s.mrows.toNat :=
  Nat.pos_of_ne_zero (mt (BitVec.eq_of_toNat_eq (y := 0)) h.rows)

theorem MatvecShapeOk.cols_pos (h : MatvecShapeOk s ed eb) : 0 < s.mcols.toNat :=
  Nat.pos_of_ne_zero (mt (BitVec.eq_of_toNat_eq (y := 0)) h.cols)

theorem MatvecShapeOk.cols_eq_vlen (h : MatvecShapeOk s ed eb) : s.mcols.toNat = s.vlen.toNat :=
  congrArg BitVec.toNat h.dims

/-- Runs that pass checks 1 to 6 slot by slot pass the checks of the machine. -/
theorem MatvecShapeOk.shapeFailure_eq_none (h : MatvecShapeOk s ed eb) : s.shapeFailure ed eb = none := by
  have rows := h.rows_pos
  have cols := h.cols_pos
  have dims := h.cols_eq_vlen
  have apartMatrix : runsMeet ed.toNat s.mrows.toNat s.mbase.toNat (s.mrows.toNat * s.mcols.toNat) = false := by
    rw [Bool.eq_false_iff, ne_eq, runsMeet_matrix_iff rows rows cols]
    rintro ⟨i, hi, r, hr, j, hj, same⟩
    exact h.apartMatrix i r j hi hr hj same
  have apartVector : runsMeet ed.toNat s.mrows.toNat eb.toNat s.vlen.toNat = false := by
    rw [Bool.eq_false_iff, ne_eq, runsMeet_iff rows (dims ▸ cols)]
    rintro ⟨i, hi, j, hj, same⟩
    exact h.apartVector i j hi hj same
  rw [State.shapeFailure_of_nonempty dims rows.ne' cols.ne']
  exact firstFailure_cons_of_pass (decide_eq_false h.matrix.not_gt) <|
    firstFailure_cons_of_pass (decide_eq_false h.vector.not_gt) <|
    firstFailure_cons_of_pass (decide_eq_false h.output.not_gt) <|
    firstFailure_cons_of_pass (Bool.or_eq_false_iff.mpr ⟨apartMatrix, apartVector⟩) rfl

/-! ## The check of one entry -/

theorem State.entryCheck_of_good {e : Entry} (h : s.goodEntry e.slot) : s.entryCheck e = none := by
  obtain ⟨present, tags⟩ := h
  simp [entryCheck, firstFailure, check, present, tags, Tags.frequency]

theorem State.entryCheck_of_absent {e : Entry} (h : (s.slot e.slot).present = false) :
    s.entryCheck e = some ⟨.elementAbsent, e.info⟩ := by simp [entryCheck, firstFailure, check, h]

/-- The context of a check on an entry's tags (R246). -/
def Entry.tagsInfo (e : Entry) (actual : Tags) : ErrFields :=
  { e.info with expected := Tags.frequency.toBits, actual := actual.toBits }

theorem State.entryCheck_of_bad_tags {e : Entry} (present : (s.slot e.slot).present = true)
    (bad : ¬ s.goodEntry e.slot) :
    s.entryCheck e = some ⟨.badOperandTags, e.tagsInfo (s.slot e.slot).tags⟩ := by
  have tags : (s.slot e.slot).tags ≠ Tags.frequency := fun good => bad ⟨present, good⟩
  simp [entryCheck, firstFailure, check, present, tags, Entry.tagsInfo]

/-- The numbers of an entry fit the fields of ERRINFO (R245). -/
structure Entry.Fits (e : Entry) : Prop where
  slot : e.slot < 2 ^ 16
  row : e.row < 2 ^ 16
  col : e.col < 2 ^ 16

section
variable {e : Entry}

theorem Entry.Fits.info_toNat (h : e.Fits) :
    e.info.slot.toNat = e.slot ∧ e.info.row.toNat = e.row ∧ e.info.col.toNat = e.col :=
  ⟨Nat.mod_eq_of_lt h.slot, Nat.mod_eq_of_lt h.row, Nat.mod_eq_of_lt h.col⟩

theorem Entry.Fits.info_toWord (h : e.Fits) :
    e.info.toWord = errWord e.operand.toBits.toNat e.slot e.row e.col 0 0 := by
  obtain ⟨slot, row, col⟩ := h.info_toNat
  rw [ErrFields.toWord_eq_errWord, slot, row, col]
  rfl

theorem Entry.Fits.tagsInfo_toWord (h : e.Fits) (actual : Tags) :
    (e.tagsInfo actual).toWord = errWord e.operand.toBits.toNat e.slot e.row e.col 5 actual.number := by
  obtain ⟨slot, row, col⟩ := h.info_toNat
  rw [← Tags.toBits_toNat, ← slot, ← row, ← col]
  exact ErrFields.toWord_eq_errWord (e.tagsInfo actual)

end

/-- The first bad entry ends the command, absent before tags (R207, R247). -/
theorem exec_matvec_of_first_entry (shape : MatvecShapeOk s ed eb) {e : Entry} (fits : e.Fits)
    (first : ∀ f, s.entryCheck e = some f → s.entryFailure eb = some f) :
    ((s.slot e.slot).present = false →
      exec (.matvec ed eb) s =
        .next (s.failsWith .elementAbsent (errWord e.operand.toBits.toNat e.slot e.row e.col 0 0))) ∧
    ((s.slot e.slot).present = true → ¬ s.goodEntry e.slot →
      exec (.matvec ed eb) s =
        .next (s.failsWith .badOperandTags
          (errWord e.operand.toBits.toNat e.slot e.row e.col 5 (s.slot e.slot).tags.number))) := by
  have failure (f : Failure) (h : s.entryCheck e = some f) : s.matvecFailure ed eb = some f := by
    rw [State.matvecFailure, shape.shapeFailure_eq_none, ← first f h]
  exact ⟨fun absent => exec_matvec_of_failure (failure _ (s.entryCheck_of_absent absent)) (by decide) fits.info_toWord,
    fun present bad => exec_matvec_of_failure (failure _ (s.entryCheck_of_bad_tags present bad)) (by decide)
      (fits.tagsInfo_toWord _)⟩

/-! ## The first bad entry -/

/-- Matrix entry (i, j) as the checks list it (R206). -/
def State.matrixEntry (s : State) (i j : Nat) : Entry :=
  { operand := .matrix, slot := s.matrixSlot i j, row := i, col := j }

/-- Vector entry j as the checks list it (R206). -/
def vectorEntry (eb : SlotNo) (j : Nat) : Entry := { operand := .vector, slot := vectorSlot eb j, row := 0, col := j }

theorem State.matrixEntries_eq (s : State) :
    s.matrixEntries = (List.range s.mrows.toNat).flatMap fun i => (List.range s.mcols.toNat).map (s.matrixEntry i) := rfl

theorem State.vectorEntries_eq (s : State) (eb : SlotNo) :
    s.vectorEntries eb = (List.range s.vlen.toNat).map (vectorEntry eb) := rfl

theorem exists_range_eq_append {n i : Nat} (h : i < n) : ∃ after, List.range n = List.range i ++ i :: after := by
  obtain ⟨k, rfl⟩ := Nat.exists_eq_add_of_lt h
  exact ⟨_, by rw [add_assoc, List.range_add, List.range_succ_eq_map, List.map_cons, add_zero]⟩

/-- The first hit among the matrix entries is at (i, j) when all row-major before it pass. -/
theorem State.findSome?_matrixEntries {f : Entry → Option Failure} {i j : Nat} (hi : i < s.mrows.toNat)
    (hj : j < s.mcols.toNat)
    (pass : ∀ i' j', i' < s.mrows.toNat → j' < s.mcols.toNat → i' < i ∨ (i' = i ∧ j' < j) →
      f (s.matrixEntry i' j') = none)
    {failure : Failure} (hit : f (s.matrixEntry i j) = some failure) : s.matrixEntries.findSome? f = some failure := by
  obtain ⟨rowsAfter, rows⟩ := exists_range_eq_append hi
  obtain ⟨colsAfter, cols⟩ := exists_range_eq_append hj
  have row : (List.range s.mcols.toNat).map (s.matrixEntry i) =
      (List.range j).map (s.matrixEntry i) ++ s.matrixEntry i j :: colsAfter.map (s.matrixEntry i) := by
    rw [cols, List.map_append, List.map_cons]
  rw [matrixEntries_eq, rows, List.flatMap_append, List.flatMap_cons, row, List.append_assoc, ← List.append_assoc,
    List.cons_append, List.findSome?_eq_some_iff]
  refine ⟨_, _, _, rfl, hit, fun e he => ?_⟩
  simp only [List.mem_append, List.mem_flatMap, List.mem_map, List.mem_range] at he
  obtain ⟨i', hi', j', hj', rfl⟩ | ⟨j', hj', rfl⟩ := he
  · exact pass i' j' (hi'.trans hi) hj' (.inl hi')
  · exact pass i j' hi (hj'.trans hj) (.inr ⟨rfl, hj'⟩)

theorem State.findSome?_vectorEntries {f : Entry → Option Failure} {j : Nat} (hj : j < s.vlen.toNat)
    (pass : ∀ j' < j, f (vectorEntry eb j') = none) {failure : Failure} (hit : f (vectorEntry eb j) = some failure) :
    (s.vectorEntries eb).findSome? f = some failure := by
  obtain ⟨after, range⟩ := exists_range_eq_append hj
  rw [vectorEntries_eq, range, List.map_append, List.map_cons, List.findSome?_eq_some_iff]
  refine ⟨_, _, _, rfl, hit, fun e he => ?_⟩
  simp only [List.mem_map, List.mem_range] at he
  obtain ⟨j', hj', rfl⟩ := he
  exact pass j' hj'

theorem State.findSome?_entryCheck_matrixEntries_eq_none
    (good : ∀ i j, i < s.mrows.toNat → j < s.mcols.toNat → s.goodEntry (s.matrixSlot i j)) :
    s.matrixEntries.findSome? s.entryCheck = none := by
  simp only [matrixEntries_eq, List.findSome?_eq_none_iff, List.mem_flatMap, List.mem_map, List.mem_range]
  rintro e ⟨i, hi, j, hj, rfl⟩
  exact s.entryCheck_of_good (good i j hi hj)

theorem State.findSome?_entryCheck_vectorEntries_eq_none (good : ∀ j < s.vlen.toNat, s.goodEntry (vectorSlot eb j)) :
    (s.vectorEntries eb).findSome? s.entryCheck = none := by
  simp only [vectorEntries_eq, List.findSome?_eq_none_iff, List.mem_map, List.mem_range]
  rintro e ⟨j, hj, rfl⟩
  exact s.entryCheck_of_good (good j hj)

theorem MatvecShapeOk.matrixSlot_lt (h : MatvecShapeOk s ed eb) {i j : Nat} (hi : i < s.mrows.toNat)
    (hj : j < s.mcols.toNat) : s.matrixSlot i j < s.cfg.nslot := by
  have position := rowMajor_lt hi hj
  have run := h.matrix
  rw [State.matrixSlot]
  omega

theorem MatvecShapeOk.matrixEntry_fits (h : MatvecShapeOk s ed eb) (hc : s.cfg.Valid) {i j : Nat}
    (hi : i < s.mrows.toNat) (hj : j < s.mcols.toNat) : (s.matrixEntry i j).Fits where
  slot := (h.matrixSlot_lt hi hj).trans_le (hc.nslot_le.trans (by decide))
  row := hi.trans s.mrows.isLt
  col := hj.trans s.mcols.isLt

theorem MatvecShapeOk.vectorEntry_fits (h : MatvecShapeOk s ed eb) (hc : s.cfg.Valid) {j : Nat} (hj : j < s.vlen.toNat) :
    (vectorEntry eb j).Fits where
  slot := ((Nat.add_lt_add_left hj _).trans_le h.vector).trans_le (hc.nslot_le.trans (by decide))
  row := Nat.two_pow_pos 16
  col := hj.trans s.vlen.isLt

end

end Sys2Proof.Machine

namespace Sys2Proof
open Machine

/-- Settles O46: each clause passes the checks before its own; runs that share a slot overlap as intervals. -/
theorem matvecShapeGuards : Obligations.MatvecShapeGuards := by
  intro s ed eb
  have fails {code : StatusCode} (o : ErrOperand) (ne_ok : code ≠ .ok)
      (h : s.shapeFailure ed eb = some ⟨code, { operand := o }⟩) :
      exec (.matvec ed eb) s = .next (s.failsWith code (errWord o.toBits.toNat 0 0 0 0 0)) :=
    exec_matvec_of_failure (State.matvecFailure_of_shapeFailure h) ne_ok (operandInfo_toWord o)
  refine ⟨fun dims => ?_, fun dims empty => ?_, fun dims rows cols matrix => ?_, fun dims rows cols matrix vector => ?_,
    fun dims rows cols matrix vector output => ?_, fun dims rows cols matrix vector output shared => ?_⟩
  · exact fails .vector (by decide) (firstFailure_cons_of_fail (decide_eq_true dims))
  · exact fails .matrix (by decide) (firstFailure_cons_of_pass (decide_eq_false (not_not.mpr dims)) <|
      firstFailure_cons_of_fail (decide_eq_true empty))
  · refine fails .matrix (by decide) ((State.shapeFailure_of_nonempty dims rows cols).trans ?_)
    exact firstFailure_cons_of_fail (decide_eq_true matrix)
  · refine fails .vector (by decide) ((State.shapeFailure_of_nonempty dims rows cols).trans ?_)
    exact firstFailure_cons_of_pass (decide_eq_false matrix.not_gt) <| firstFailure_cons_of_fail (decide_eq_true vector)
  · refine fails .output (by decide) ((State.shapeFailure_of_nonempty dims rows cols).trans ?_)
    exact firstFailure_cons_of_pass (decide_eq_false matrix.not_gt) <|
      firstFailure_cons_of_pass (decide_eq_false vector.not_gt) <| firstFailure_cons_of_fail (decide_eq_true output)
  · refine fails .output (by decide) ((State.shapeFailure_of_nonempty dims rows cols).trans ?_)
    refine firstFailure_cons_of_pass (decide_eq_false matrix.not_gt) <|
      firstFailure_cons_of_pass (decide_eq_false vector.not_gt) <|
      firstFailure_cons_of_pass (decide_eq_false output.not_gt) <| firstFailure_cons_of_fail ?_
    have rows_pos := Nat.pos_of_ne_zero rows
    have cols_pos := Nat.pos_of_ne_zero cols
    rw [Bool.or_eq_true, runsMeet_matrix_iff rows_pos rows_pos cols_pos, runsMeet_iff rows_pos (dims ▸ cols_pos)]
    obtain ⟨i, hi, inMatrix | inVector⟩ := shared
    · exact .inl ⟨i, hi, inMatrix⟩
    · exact .inr ⟨i, hi, inVector⟩

/-- Settles O47: matrix entries row-major, then vector entries; the entries before the first bad one pass. -/
theorem matvecEntryGuards : Obligations.MatvecEntryGuards := by
  intro s ed eb hc shape
  refine ⟨fun i j hi hj before => ?_, fun matrix j hj before => ?_⟩
  · refine exec_matvec_of_first_entry shape (shape.matrixEntry_fits hc hi hj) fun f bad => ?_
    rw [State.entryFailure, State.findSome?_matrixEntries hi hj (fun i' j' hi' hj' lt => ?_) bad]
    exact s.entryCheck_of_good (before i' j' hi' hj' lt)
  · refine exec_matvec_of_first_entry shape (shape.vectorEntry_fits hc hj) fun f bad => ?_
    rw [State.entryFailure, State.findSome?_entryCheck_matrixEntries_eq_none matrix]
    exact State.findSome?_vectorEntries hj (fun j' hj' => s.entryCheck_of_good (before j' hj')) bad

end Sys2Proof
end

section
/-!
What MATVEC writes past its checks: a row is the sum of the products of its entries, centred (R208), and the rows go to
the slots of the output run (R209); settles O48.
-/
namespace Sys2Proof.Machine

/-! ## One row (R208) -/

theorem residueAt_zipWith {q n : Nat} {f : Int → Int → Int} {a b : List Int} (ha : a.length = n) (hb : b.length = n)
    {x : Nat} (hx : x < n) :
    residueAt q (List.zipWith f a b) x = ((f (a.getD x 0) (b.getD x 0) : Int) : ZMod q) := by
  rw [residueAt, getD_zipWith (ha ▸ hx) (hb ▸ hx)]

/-- The lists p 0, p 1, …, p m added up coefficient by coefficient, from the left (R208). -/
def accumulated (q : Nat) (p : Nat → List Int) (m : Nat) : List Int :=
  (List.range' 1 m).foldl (fun acc j => List.zipWith (addMod q) acc (p j)) (p 0)

theorem accumulated_succ (q : Nat) (p : Nat → List Int) (m : Nat) :
    accumulated q p (m + 1) = List.zipWith (addMod q) (accumulated q p m) (p (m + 1)) := by
  rw [accumulated, List.range'_1_concat, List.foldl_append, add_comm 1 m]
  rfl

theorem State.rowResult_eq_accumulated (s : State) (eb : SlotNo) (i : Nat) :
    s.rowResult eb i = accumulated s.cfg.q (s.entryProduct eb i) (s.mcols.toNat - 1) := rfl

section
variable {q n : Nat} {p : Nat → List Int} (length : ∀ j, (p j).length = n)
include length

theorem accumulated_length (m : Nat) : (accumulated q p m).length = n := by
  induction m with
  | zero => exact length 0
  | succ m ih => rw [accumulated_succ, List.length_zipWith, ih, length, Nat.min_self]

theorem residueAt_accumulated {x : Nat} (hx : x < n) (m : Nat) :
    residueAt q (accumulated q p m) x = ∑ j ∈ Finset.range (m + 1), residueAt q (p j) x := by
  induction m with
  | zero => simp [accumulated]
  | succ m ih =>
    rw [accumulated_succ, residueAt_zipWith (accumulated_length length m) (length _) hx, cast_addMod, ← residueAt,
      ← residueAt, ih, ← Finset.sum_range_succ]

end

section
variable {s : State} {eb : SlotNo}

theorem State.entryProduct_length (hs : s.Inv) (i j : Nat) : (s.entryProduct eb i j).length = s.cfg.n :=
  s.zipWith_values_length hs.memory _ _ _

theorem State.residueAt_entryProduct (hs : s.Inv) (i j : Nat) {x : Nat} (hx : x < s.cfg.n) :
    residueAt s.cfg.q (s.entryProduct eb i j) x =
      ((s.coeff (s.matrixSlot i j) x * s.coeff (vectorSlot eb j) x : Int) : ZMod s.cfg.q) := by
  rw [entryProduct, residueAt_zipWith (s.slot_values_length hs.memory _) (s.slot_values_length hs.memory _) hx,
    cast_multiplyMod, Int.cast_mul, coeff, coeff]

/-- A row of at least one column is the sum of its products modulo Q. -/
theorem State.residueAt_rowResult (hs : s.Inv) (cols : 0 < s.mcols.toNat) (i : Nat) {x : Nat} (hx : x < s.cfg.n) :
    residueAt s.cfg.q (s.rowResult eb i) x =
      ((∑ j ∈ Finset.range s.mcols.toNat, s.coeff (s.matrixSlot i j) x * s.coeff (vectorSlot eb j) x : Int) :
        ZMod s.cfg.q) := by
  rw [rowResult_eq_accumulated, residueAt_accumulated (s.entryProduct_length hs i) hx, Nat.sub_add_cancel cols,
    Int.cast_sum]
  exact Finset.sum_congr rfl fun j _ => s.residueAt_entryProduct hs i j hx

/-- Coefficient `x` of a row is the centred sum of its products (R208). -/
theorem State.rowResult_isCentredOf (hs : s.Inv) (cols : 0 < s.mcols.toNat) (i : Nat) {x : Nat} (hx : x < s.cfg.n) :
    IsCentredOf s.cfg.q
      (∑ j ∈ Finset.range s.mcols.toNat, s.coeff (s.matrixSlot i j) x * s.coeff (vectorSlot eb j) x)
      ((s.rowResult eb i).getD x 0) :=
  isCentredOf_getD (s.rowResult_centred hs.valid.q_odd eb i) (by rwa [s.rowResult_length hs.memory])
    (s.residueAt_rowResult hs cols i hx)

/-! ## The output run (R209) -/

/-- The slots ed, ed + 1, …, ed + m − 1 written in order (R209). -/
def State.writeRun (s : State) (ed : SlotNo) (tags : Tags) (values : Nat → List Int) (m : Nat) : State :=
  (List.range m).foldl (fun t i => t.setElement (outputSlot ed i) tags (values i)) s

theorem State.matvecResult_eq_writeRun (s : State) (ed eb : SlotNo) :
    s.matvecResult ed eb = s.writeRun ed Tags.frequency (s.rowResult eb) s.mrows.toNat := rfl

theorem State.writeRun_succ (s : State) (ed : SlotNo) (tags : Tags) (values : Nat → List Int) (m : Nat) :
    s.writeRun ed tags values (m + 1) =
      (s.writeRun ed tags values m).setElement (outputSlot ed m) tags (values m) := by
  rw [writeRun, List.range_succ, List.foldl_append]
  rfl

theorem State.slotCount_writeRun (s : State) (ed : SlotNo) (tags : Tags) (values : Nat → List Int) (m : Nat) :
    (s.writeRun ed tags values m).mem.slots.length = s.mem.slots.length := by
  induction m with
  | zero => rfl
  | succ m ih => rw [writeRun_succ, setElement_mem, List.length_set, ih]

theorem State.slot_writeRun (ed : SlotNo) (tags : Tags) (values : Nat → List Int) {m : Nat}
    (inside : ed.toNat + m ≤ s.mem.slots.length) {i : Nat} (hi : i < m) :
    (s.writeRun ed tags values m).slot (outputSlot ed i) =
      { present := true, tags := tags, coeffs := (values i).map pattern } := by
  induction m with
  | zero => exact absurd hi (Nat.not_lt_zero i)
  | succ m ih =>
    rw [writeRun_succ]
    obtain rfl | lt : i = m ∨ i < m := by omega
    · exact slot_setElement_same _ (by rw [slotCount_writeRun, outputSlot]; omega) tags _
    · rw [slot_setElement_ne _ (by simp only [outputSlot]; omega)]
      exact ih (by omega) lt

theorem State.slot_matvecResult {ed : SlotNo} (hs : s.Inv) (output : ed.toNat + s.mrows.toNat ≤ s.cfg.nslot) {i : Nat}
    (hi : i < s.mrows.toNat) :
    (s.matvecResult ed eb).slot (outputSlot ed i) =
      { present := true, tags := Tags.frequency, coeffs := (s.rowResult eb i).map pattern } := by
  obtain ⟨count, -⟩ := Memory.wf_iff.mp hs.memory
  rw [matvecResult_eq_writeRun]
  exact State.slot_writeRun ed _ _ (by omega) hi

/-- MATVEC past its checks (R209). -/
theorem exec_matvec_of_pass {ed : SlotNo} (shape : MatvecShapeOk s ed eb)
    (matrix : ∀ i j, i < s.mrows.toNat → j < s.mcols.toNat → s.goodEntry (s.matrixSlot i j))
    (vector : ∀ j < s.vlen.toNat, s.goodEntry (vectorSlot eb j)) :
    exec (.matvec ed eb) s = .next (s.matvecResult ed eb).completeOk := by
  have pass : s.matvecFailure ed eb = none := by
    rw [State.matvecFailure, shape.shapeFailure_eq_none, State.entryFailure,
      State.findSome?_entryCheck_matrixEntries_eq_none matrix]
    exact State.findSome?_entryCheck_vectorEntries_eq_none vector
  rw [exec, execMatvec, pass, State.conclude_none]

end

end Sys2Proof.Machine

namespace Sys2Proof
open Machine

/-- Settles O48: past the checks every output slot holds its row, read back from the words it is stored in. -/
theorem matvecResult : Obligations.MatvecResult := by
  intro s ed eb hs shape matrix vector
  have h := exec_matvec_of_pass shape matrix vector
  refine ⟨_, h, fun i hi => ?_, exec_matvec_slotFrame h,
    State.completeOk_completedOk (CommandWrites.run (s := s) ed eb).sticky_eq⟩
  have slot : (s.matvecResult ed eb).completeOk.slot (ed.toNat + i) = _ := State.slot_matvecResult hs shape.output hi
  have stored := values_map_pattern hs.valid.q_lt (s.rowResult_centred hs.valid.q_odd eb i) true Tags.frequency
  refine ⟨slot ▸ rfl, slot ▸ rfl, ?_, fun x hx => ?_⟩
  · rw [slot, List.length_map, s.rowResult_length hs.memory]
  · rw [State.coeff_eq (State.completeOk _), slot, stored]
    exact State.rowResult_isCentredOf hs shape.cols_pos i hx

end Sys2Proof
end

section
/-!
ECREATE of an existing slot: its one check passes (R94) and the zeros it stores are read back as words (R230); settles
O35.
-/
namespace Sys2Proof.Machine

@[simp] theorem pattern_zero : pattern 0 = 0 := rfl

theorem ecreate_wellFormed {nslot : Nat} {ed : SlotNo} (h : ed.toNat < nslot) :
    (Instr.ecreate ed).wellFormed nslot = true :=
  ntt_wellFormed h

/-- ECREATE past its check (R230). -/
theorem exec_ecreate_of_legal {s : State} {ed : SlotNo} (legal : ed.toNat < s.cfg.nslot) :
    exec (.ecreate ed) s =
      .next (s.setElement ed.toNat Tags.created (List.replicate s.cfg.n 0)).completeOk := by
  rw [exec, execEcreate, State.slotFieldCheck_of_wellFormed (ecreate_wellFormed legal), State.conclude_none]

end Sys2Proof.Machine

namespace Sys2Proof
open Machine

/-- Settles O35: ECREATE has no check on what the slot held, and 0 is stored as the word 0. -/
theorem ecreateResult : Obligations.EcreateResult := by
  intro s ed hs legal
  have h := exec_ecreate_of_legal legal
  refine ⟨_, h, ?_, exec_slotFrame_of_slotDest rfl h, State.completeOk_completedOk rfl⟩
  rw [State.slot_setElement_completeOk hs legal, List.map_replicate, pattern_zero, Tags.created]

end Sys2Proof
end

section
/-!
Exceptions: every command completes (R240), OK or failing (R241, R243), with a code of its own list (R242), and
ERRINFO has its fields in their places (R245); settles O7, O8, O9, O10 and O54.
-/
namespace Sys2Proof.Machine

/-! ## Every command and every host operation completes (R240, R289) -/

theorem State.inverseResult_next (s : State) (rd r : RegNo) (x : Option Int) :
    ∃ t, s.inverseResult rd r x = .next t := by
  cases x <;> exact ⟨_, rfl⟩

theorem execZfind_next (rd : RegNo) (neg : Bool) (s : State) : ∃ t, execZfind rd neg s = .next t := by
  unfold execZfind
  split <;> exact s.conclude_next _ _

theorem exec_next (i : Instr) (s : State) : ∃ t, exec i s = .next t := by
  cases i with
  | moddiv rd rs1 rs2 => exact s.inverseResult_next rd rs2 _
  | modinv rd rs1 => exact s.inverseResult_next rd rs1 _
  | zfind rd neg => exact execZfind_next rd neg s
  | cred | modadd | modsub | modmul | modexp | bitrev | zgen => exact ⟨_, rfl⟩
  | ecreate | ntt | intt | pwadd | pwsub | pwmul | matvec => exact s.conclude_next _ _

theorem runCommand_next (v : Word) (s : State) : ∃ t, runCommand v s = .next t := by
  unfold runCommand
  split
  · exact s.conclude_next _ _
  · exact exec_next _ s

theorem hostWrite_next (a : Addr) (v : Word) (s : State) : ∃ t, hostWrite a v s = .next t := by
  unfold hostWrite
  split
  · exact runCommand_next v s
  · exact ⟨_, rfl⟩

theorem perform_next (op : HostOp) (s : State) : ∃ t, perform op s = .next t := by
  cases op with
  | read => exact ⟨_, rfl⟩
  | write a v => exact hostWrite_next a v s
  | reset => exact ⟨_, rfl⟩

theorem step_next (s : State) : ∃ t, step s = .next t := by
  cases hp : s.port.pending with
  | nil => exact ⟨s, step_idle hp⟩
  | cons op rest => exact step_op hp ▸ perform_next op _

/-! ## The two endings (R241, R243) -/

section
variable {s t : State}

theorem CommandEnds.eq_failsWith {i : Instr} (h : CommandEnds s i t) (failed : t.code ≠ .ok) :
    t = s.failsWith t.code t.errinfo := by
  cases h with
  | failed ne_ok info => exact s.complete_eq_failsWith ne_ok info
  | wrote => exact absurd rfl failed

theorem CommandEnds.completedOk {i : Instr} (h : CommandEnds s i t) (ok : t.code = .ok) : CompletedOk s t := by
  cases h with
  | failed ne_ok => exact absurd ok ne_ok
  | wrote writes => exact State.completeOk_completedOk writes.sticky_eq

theorem runCommand_eq_failsWith {v : Word} (h : runCommand v s = .next t) (failed : t.code ≠ .ok) :
    t = s.failsWith t.code t.errinfo := by
  obtain ⟨-, -, rfl⟩ | ⟨i, -, hi⟩ := runCommand_cases h
  · exact s.complete_eq_failsWith failed {}
  · exact (exec_ends hi).eq_failsWith failed

/-! ## The codes a command's checks report (R242) -/

theorem firstFailure_code_mem {l : List (Option Failure)} {codes : List StatusCode}
    (hl : ∀ o ∈ l, ∀ f, o = some f → f.code ∈ codes) {f : Failure} (h : firstFailure l = some f) : f.code ∈ codes :=
  hl _ (firstFailure_mem h) f rfl

theorem State.nttFailure_code_mem {ed : SlotNo} (legal : (Instr.ntt ed).wellFormed s.cfg.nslot = true) {f : Failure}
    (h : s.nttFailure ed = some f) : f.code ∈ [.elementAbsent, .tableAbsent, .wrongDomain, .notNegacyclic] := by
  refine firstFailure_code_mem ?_ h
  simp [slotFieldCheck_of_wellFormed legal, absentCheck, tableCheck, domainCheck, negacyclicCheck]

theorem State.inttFailure_code_mem {ed : SlotNo} (legal : (Instr.intt ed).wellFormed s.cfg.nslot = true) {f : Failure}
    (h : s.inttFailure ed = some f) : f.code ∈ [.elementAbsent, .tableAbsent, .wrongDomain] := by
  refine firstFailure_code_mem ?_ h
  simp [slotFieldCheck_of_wellFormed legal, absentCheck, tableCheck, domainCheck]

theorem State.pointwiseFailure_code_mem {i : Instr} (legal : i.wellFormed s.cfg.nslot = true) {ea eb : SlotNo}
    {f : Failure} (h : s.pointwiseFailure i ea eb = some f) :
    f.code ∈ [.elementAbsent, .notNttForm, .montgomeryMismatch] := by
  refine firstFailure_code_mem ?_ h
  simp [slotFieldCheck_of_wellFormed legal, absentCheck, nttFormCheck, montgomeryCheck]

/-- A failing MATVEC fails one of its shape checks or the check of some entry (R207). -/
theorem State.matvecFailure_cases {ed eb : SlotNo} {f : Failure} (h : s.matvecFailure ed eb = some f) :
    s.shapeFailure ed eb = some f ∨ ∃ e, s.entryCheck e = some f := by
  unfold matvecFailure entryFailure at h
  split at h
  case h_1 hshape => exact .inl (h ▸ hshape)
  case h_2 =>
    right
    split at h
    case h_1 hmatrix =>
      obtain ⟨e, -, he⟩ := List.exists_of_findSome?_eq_some hmatrix
      exact ⟨e, h ▸ he⟩
    case h_2 =>
      obtain ⟨e, -, he⟩ := List.exists_of_findSome?_eq_some h
      exact ⟨e, he⟩

theorem State.matvecFailure_code_mem {ed eb : SlotNo} {f : Failure} (h : s.matvecFailure ed eb = some f) :
    f.code ∈ [.dimMismatch, .badShape, .elementAbsent, .badOperandTags] := by
  obtain hshape | ⟨e, he⟩ := State.matvecFailure_cases h
  · exact firstFailure_code_mem (by simp) hshape
  · exact firstFailure_code_mem (by simp) he

/-! ## The codes a command completes with (R242) -/

theorem conclude_code_mem {finished : State} {failure : Option Failure} {codes : List StatusCode}
    (hf : ∀ {f}, failure = some f → f.code ∈ codes) (h : s.conclude failure finished = .next t) :
    t.code ∈ .ok :: codes := by
  obtain ⟨f, hs, rfl⟩ | ⟨-, rfl⟩ := State.conclude_cases h
  · exact .tail _ (hf hs)
  · exact .head _

theorem inverseResult_code_mem {rd r : RegNo} {x : Option Int} (h : s.inverseResult rd r x = .next t) :
    t.code ∈ [.ok, .noInverse] := by
  obtain ⟨-, rfl⟩ | ⟨v, -, rfl⟩ := State.inverseResult_cases h
  · exact .tail _ (.head _)
  · exact .head _

theorem execZfind_code_mem {rd : RegNo} {neg : Bool} (h : execZfind rd neg s = .next t) :
    t.code ∈ [.ok, .rootNotFound] := by
  unfold execZfind at h
  split at h
  · exact conclude_code_mem (by simp) h
  · exact conclude_code_mem (failure := none) nofun h

theorem exec_code_mem_reportable {i : Instr} (legal : i.wellFormed s.cfg.nslot = true) (h : exec i s = .next t) :
    t.code ∈ reportable i := by
  cases i with
  | cred | modadd | modsub | modmul | modexp | bitrev | zgen =>
    exact conclude_code_mem (s := s) (failure := none) nofun h
  | moddiv | modinv => exact inverseResult_code_mem h
  | zfind => exact execZfind_code_mem h
  | ecreate ed => exact conclude_code_mem (by simp [State.slotFieldCheck_of_wellFormed legal]) h
  | ntt => exact conclude_code_mem (State.nttFailure_code_mem legal) h
  | intt => exact conclude_code_mem (State.inttFailure_code_mem legal) h
  | pwadd | pwsub | pwmul => exact conclude_code_mem (State.pointwiseFailure_code_mem legal) h
  | matvec => exact conclude_code_mem State.matvecFailure_code_mem h

end

/-! ## The fields of ERRINFO (R245) -/

theorem ErrFields.toWord_toNat (f : ErrFields) :
    f.toWord.toNat =
      f.slot.toNat + f.col.toNat * 2 ^ 16 + f.row.toNat * 2 ^ 32 + f.expected.toNat * 2 ^ 48 +
        f.actual.toNat * 2 ^ 52 + f.operand.toBits.toNat * 2 ^ 56 := by
  simp only [toWord, toNat_append_eq_add, BitVec.toNat_ofNat]
  omega

theorem ErrFields.extract_toWord (f : ErrFields) {start len : Nat} {x : BitVec len}
    (h : f.toWord.toNat / 2 ^ start % 2 ^ len = x.toNat) : f.toWord.extractLsb' start len = x :=
  BitVec.eq_of_toNat_eq ((toNat_extractLsb'_eq_div ..).trans h)

theorem ErrFields.slot_toWord (f : ErrFields) : f.toWord.extractLsb' 0 16 = f.slot :=
  f.extract_toWord (by rw [toWord_toNat]; omega)

theorem ErrFields.col_toWord (f : ErrFields) : f.toWord.extractLsb' 16 16 = f.col :=
  f.extract_toWord (by rw [toWord_toNat]; omega)

theorem ErrFields.row_toWord (f : ErrFields) : f.toWord.extractLsb' 32 16 = f.row :=
  f.extract_toWord (by rw [toWord_toNat]; omega)

theorem ErrFields.expected_toWord (f : ErrFields) : f.toWord.extractLsb' 48 3 = f.expected :=
  f.extract_toWord (by rw [toWord_toNat]; omega)

theorem ErrFields.actual_toWord (f : ErrFields) : f.toWord.extractLsb' 52 3 = f.actual :=
  f.extract_toWord (by rw [toWord_toNat]; omega)

theorem ErrFields.operand_toWord (f : ErrFields) : f.toWord.extractLsb' 56 4 = f.operand.toBits :=
  f.extract_toWord (by rw [toWord_toNat]; omega)

theorem operand_numbers :
    ∀ p ∈ [(ErrOperand.none, 0), (.a, 1), (.b, 2), (.matrix, 3), (.vector, 4), (.output, 5), (.table, 6), (.scalar, 7)],
      p.1.toBits.toNat = p.2 := by
  decide

end Sys2Proof.Machine

namespace Sys2Proof
open Machine

/-- Settles O7: every command ends in `conclude`, and every other host operation has one next state. -/
theorem everyStepAnswersNext : Obligations.EveryStepAnswersNext := ⟨step_next, exec_next⟩

/-- Settles O8: a command either fails a check, with nothing written, or completes OK. -/
theorem failuresChangeOnlyStatus : Obligations.FailuresChangeOnlyStatus :=
  ⟨fun _ _ _ h => (exec_ends h).eq_failsWith, fun v s _ h => runCommand_eq_failsWith (step_withCommand s v ▸ h)⟩

/-- Settles O9: the writes of a command leave STICKY, and its completion clears ERRINFO. -/
theorem okCompletionClearsErrinfo : Obligations.OkCompletionClearsErrinfo := by
  intro i s t h ok
  obtain ⟨-, errinfo, sticky⟩ := (exec_ends h).completedOk ok
  exact ⟨errinfo, sticky⟩

/-- Settles O10: the slot-field check of a legal command passes, and its other checks report listed codes. -/
theorem commandsReportOnlyTheirCodes : Obligations.CommandsReportOnlyTheirCodes :=
  fun _ _ _ => exec_code_mem_reportable

/-- Settles O54: the fields are read off the word as a weighted sum. -/
theorem errinfoLayout : Obligations.ErrinfoLayout := by
  intro f
  refine ⟨f.slot_toWord, f.col_toWord, f.row_toWord, f.expected_toWord, f.actual_toWord, ?_, f.operand_toWord,
    f.toWord_and_reserved, f.toWord_toNat⟩
  intro p hp operand
  rw [f.operand_toWord, operand, operand_numbers p hp]

end Sys2Proof
end
